-- ==== Sys2Proof/Word.lean ====
section
/-! DEFINITION. The words of rule R9, the enumerations of rule R12 and the message of rule R70: the types every other file is
written in. -/

namespace Sys2Proof

/-- A byte: the width of a port register, a shadow byte and one byte of a message (R8 `PORT_W` = 8, R51). -/
abbrev Byte := BitVec 8

/-- R12 Motor. -/
inductive Motor where
  | a
  | b
deriving DecidableEq, Repr

/-- R12 Direction. -/
inductive Direction where
  | forward
  | backward
deriving DecidableEq, Repr

/-- R12 Speed: five levels, `l1` the fastest, `l5` the slowest. -/
inductive Speed where
  | l1
  | l2
  | l3
  | l4
  | l5
deriving DecidableEq, Repr

/-- R12 Microstep. -/
inductive Microstep where
  | full
  | half
  | quarter
  | sixteenth
deriving DecidableEq, Repr

/-- R12 RunMode; `off` is the source's Stopped and `on` its Running (90_conflicts.md C5). -/
inductive RunMode where
  | off
  | on
deriving DecidableEq, Repr

/-- R12 SleepMode. -/
inductive SleepMode where
  | motorsOff
  | motorsOn
deriving DecidableEq, Repr

/-- R12 ResetState of the driver ICs' shared reset line. -/
inductive ResetState where
  | off
  | on
deriving DecidableEq, Repr

/-- R12 AuxLine. -/
inductive AuxLine where
  | aux1
  | aux2
  | aux3
  | aux4
deriving DecidableEq, Repr

/-- R12 AuxLevel. -/
inductive AuxLevel where
  | off
  | on
deriving DecidableEq, Repr

/-- The ten logical signals of R22. -/
inductive Signal where
  | dirA
  | dirB
  | ms1
  | ms2
  | sleep
  | rstRel
  | aux1
  | aux2
  | aux3
  | aux4
deriving DecidableEq, Repr

/-- The two timer slots of R28. -/
inductive Slot where
  | slot0
  | slot1
deriving DecidableEq, Repr

/-- One complete inbound message (R40, R70): its command code `Rx(0)` and the bytes `Rx(1)` .. `Rx(n-1)` after it. A message
has at least one byte, so it is not a bare list. -/
structure Message where
  code : Byte
  rest : List Byte
deriving DecidableEq, Repr

/-- `L(k+1)` for `Lk`, k = 1..4 (the index step of R160). -/
def Speed.slower : Speed → Option Speed
  | .l1 => some .l2
  | .l2 => some .l3
  | .l3 => some .l4
  | .l4 => some .l5
  | .l5 => none

end Sys2Proof
end

