-- ==== Sys2Proof/Config.lean ====
section
/-! DEFINITION. The implementation parameters of rule R8. Those with a default in the spec are plain data in `Params`, which a
machine carries unchanged in its state, so that a theorem about every state is a theorem about every instance of the block
(assumption log 1). Those the spec leaves OPEN are constants without a body, and so are the free values an observer sees where
a register holds `none` (R21): nothing in Lean can tell what they are. -/

namespace Sys2Proof

/-- A place on a port: port index and bit (R23; the bit is 0..7 by its type). -/
structure Line where
  port : Nat
  bit  : Fin 8
deriving DecidableEq, Repr

/-- `LAYOUT` (R8, R23): the place of each of the ten signals. -/
structure Layout where
  dirA   : Line
  dirB   : Line
  ms1    : Line
  ms2    : Line
  sleep  : Line
  rstRel : Line
  aux1   : Line
  aux2   : Line
  aux3   : Line
  aux4   : Line
deriving DecidableEq, Repr

/-- `RESET_DIR_MS` (R8, R39): reset values of the direction and microstep signals. -/
structure ResetDirMs where
  dirA : Bool
  dirB : Bool
  ms1  : Bool
  ms2  : Bool
deriving DecidableEq, Repr

/-- `CMD_CODE` (R8, R77): the code byte of each of the 27 commands, in the order of R76. -/
structure CmdCode where
  aux1On             : Byte
  aux1Off            : Byte
  aux2On             : Byte
  aux2Off            : Byte
  aux3On             : Byte
  aux3Off            : Byte
  aux4On             : Byte
  aux4Off            : Byte
  resetOn            : Byte
  resetOff           : Byte
  sleepOn            : Byte
  sleepOff           : Byte
  motorAOn           : Byte
  motorAOff          : Byte
  motorBOn           : Byte
  motorBOff          : Byte
  motorAForward      : Byte
  motorABackward     : Byte
  motorBForward      : Byte
  motorBBackward     : Byte
  microstepFull      : Byte
  microstepHalf      : Byte
  microstepQuarter   : Byte
  microstepSixteenth : Byte
  speedA             : Byte
  speedB             : Byte
  power              : Byte
deriving DecidableEq, Repr

/-- `SPEED_CODE` (R8, R74): the parameter byte of each speed level. -/
structure SpeedCode where
  l1 : Byte
  l2 : Byte
  l3 : Byte
  l4 : Byte
  l5 : Byte
deriving DecidableEq, Repr

/-- `TIMER_OF` (R8, R28): the timer slot of each motor. -/
structure TimerOf where
  a : Slot
  b : Slot
deriving DecidableEq, Repr

/-- The parameters of R8 that the spec gives a default. `sleepOn` is `SLEEP_CMD_MAP`: the mode the Sleep On code selects. That the
Sleep Off code selects the other mode under every map is the model's choice; the spec says so for the default map alone (log 16). -/
structure Params where
  nports       : Nat
  layout       : Layout
  resetForeign : List Byte
  resetDirMs   : ResetDirMs
  resetSleep   : Bool
  cmdCode      : CmdCode
  speedCode    : SpeedCode
  timerOf      : TimerOf
  sleepOn      : SleepMode
deriving DecidableEq, Repr

namespace Config

/-- `PRESC_W` (R8, R28): width of a timer's prescale register. OPEN. -/
opaque prescW : Nat

/-- `PERIOD_W` (R8, R28): width of a timer's period register. OPEN. -/
opaque periodW : Nat

/-- A prescale value (R28). -/
abbrev Presc := BitVec prescW

/-- A period value (R28). -/
abbrev Period := BitVec periodW

/-- `SPEED_TABLE` (R8, R150): the (prescaler, period) pair of each level. OPEN, so no proof can see an entry, nor that two
entries differ. -/
opaque speedTable : Speed → Presc × Period

/-- A step-pulse frequency: a nonnegative rational in a unit the spec does not give (R159). -/
abbrev Rate := ℚ≥0

/-- A frequency law that keeps R160: a faster level's pair never gives a lower rate than the next slower level's. -/
structure RateLaw where
  rate    : Presc × Period → Rate
  ordered : ∀ k j, Speed.slower k = some j → rate (speedTable j) ≤ rate (speedTable k)

/-- The law under which every pair has the same rate. It shows that R160 can be met; nothing else rests on it. -/
def RateLaw.level : RateLaw := ⟨fun _ => 0, fun _ _ _ => le_refl _⟩

/-- Which frequency law the hardware has. OPEN; an `Option` only so that Lean knows the type to be inhabited. -/
opaque rateLaw : Option RateLaw

/-- `STEP_RATE` (R8, R159): OPEN but for R160. -/
def stepRate (c : Presc × Period) : Rate := (rateLaw.getD RateLaw.level).rate c

/-- `RXBUF_SIZE` above its least legal value 2 (R8). OPEN. -/
opaque rxbufExtra : Nat

/-- `RXBUF_SIZE` (R8): at least 2, else OPEN. -/
def rxbufSize : Nat := rxbufExtra + 2

/-- What the n-th observation of the analog output sees while `pwr` is `none` (R21). Free value. -/
opaque freePwr : Nat → BitVec 5

/-- What the n-th observation of a slot's prescale register sees while it is `none` (R21). Free value, one for each slot, so that
nothing relates the two slots. -/
opaque freePresc : Slot → Nat → Presc

/-- What the n-th observation of a slot's period register sees while it is `none` (R21). Free value, one for each slot. -/
opaque freePeriod : Slot → Nat → Period

/-- The step rate the n-th observation of an enabled slot sees while a field of it is `none`: any rate, including none (R159,
R226). Free value, one for each slot, so that nothing relates the rates of two slots without a known speed. -/
opaque freeRate : Slot → Nat → Option Rate

/-- What a byte of the receive buffer holds that no message has written. Free value; under the transport's duties (R57) the
block never reads one. -/
opaque staleRx : Nat → Byte

end Config

end Sys2Proof
end

