-- ==== Sys2Proof/Machine/Params.lean ====
section
/-! DEFINITION. Reading the parameters of rule R8 by name, and their defaults. -/

namespace Sys2Proof

/-- Every speed level, fastest first. -/
def Speed.all : List Speed := [.l1, .l2, .l3, .l4, .l5]

/-- Every signal of R22, in the order of its table. -/
def Signal.all : List Signal :=
  [.dirA, .dirB, .ms1, .ms2, .sleep, .rstRel, .aux1, .aux2, .aux3, .aux4]

/-- `LAYOUT(g)` (R23). -/
def Layout.at (L : Layout) : Signal → Line
  | .dirA   => L.dirA
  | .dirB   => L.dirB
  | .ms1    => L.ms1
  | .ms2    => L.ms2
  | .sleep  => L.sleep
  | .rstRel => L.rstRel
  | .aux1   => L.aux1
  | .aux2   => L.aux2
  | .aux3   => L.aux3
  | .aux4   => L.aux4

/-- `SPEED_CODE(k)` (R74). -/
def SpeedCode.of (C : SpeedCode) : Speed → Byte
  | .l1 => C.l1
  | .l2 => C.l2
  | .l3 => C.l3
  | .l4 => C.l4
  | .l5 => C.l5

/-- `TIMER_OF(m)` (R28). -/
def TimerOf.of (T : TimerOf) : Motor → Slot
  | .a => T.a
  | .b => T.b

/-- The reset value R39 gives the bit of each signal. -/
def Params.resetBit (P : Params) : Signal → Bool
  | .dirA   => P.resetDirMs.dirA
  | .dirB   => P.resetDirMs.dirB
  | .ms1    => P.resetDirMs.ms1
  | .ms2    => P.resetDirMs.ms2
  | .sleep  => P.resetSleep
  | .rstRel => false
  | .aux1   => false
  | .aux2   => false
  | .aux3   => false
  | .aux4   => false

/-- The default layout of R24. -/
def Layout.default : Layout where
  dirA   := ⟨0, 0⟩
  dirB   := ⟨0, 1⟩
  ms1    := ⟨0, 2⟩
  ms2    := ⟨0, 3⟩
  sleep  := ⟨0, 4⟩
  rstRel := ⟨0, 5⟩
  aux1   := ⟨1, 0⟩
  aux2   := ⟨1, 1⟩
  aux3   := ⟨1, 2⟩
  aux4   := ⟨1, 3⟩

/-- The default code bytes of R76. -/
def CmdCode.default : CmdCode where
  aux1On             := 0x01
  aux1Off            := 0x02
  aux2On             := 0x03
  aux2Off            := 0x04
  aux3On             := 0x05
  aux3Off            := 0x06
  aux4On             := 0x07
  aux4Off            := 0x08
  resetOn            := 0x09
  resetOff           := 0x0A
  sleepOn            := 0x0B
  sleepOff           := 0x0C
  motorAOn           := 0x0D
  motorAOff          := 0x0E
  motorBOn           := 0x0F
  motorBOff          := 0x10
  motorAForward      := 0x11
  motorABackward     := 0x12
  motorBForward      := 0x13
  motorBBackward     := 0x14
  microstepFull      := 0x15
  microstepHalf      := 0x16
  microstepQuarter   := 0x17
  microstepSixteenth := 0x18
  speedA             := 0x19
  speedB             := 0x1A
  power              := 0x1B

/-- The default speed bytes of R74: byte k is level Lk. -/
def SpeedCode.default : SpeedCode := ⟨1, 2, 3, 4, 5⟩

/-- The defaults of R8 (DESIGN CHOICE of the spec, log 2): what `State.reset` and the fixed decoding of the opcode table use. -/
def Params.default : Params where
  nports       := 2
  layout       := Layout.default
  resetForeign := [0x00, 0x00]
  resetDirMs   := ⟨false, false, false, false⟩
  resetSleep   := true
  cmdCode      := CmdCode.default
  speedCode    := SpeedCode.default
  timerOf      := ⟨.slot0, .slot1⟩
  sleepOn      := .motorsOff

end Sys2Proof
end

