-- ==== Sys2Proof/Machine/Operands.lean ====
section
/-! DEFINITION. Bits of a byte and bytes of a message; every operand form: the two parameter bytes (R73, R74) and the fixed tables
that turn a member of an enumeration into signal bits (R104, R120, R127, R132, R135). None of them depends on the machine's
state. -/

namespace Sys2Proof

/-- `1 << b` of R9: the byte with only bit `b` set. -/
def Byte.mask (b : Fin 8) : Byte := 1#8 <<< b.val

/-- `v[b]` of R9: bit b of a byte, bit 0 the least significant. -/
def Byte.bit (v : Byte) (b : Fin 8) : Bool := v.getLsbD b.val

/-- The bytes of a message in the order they lie in the receive buffer (R51, R70). -/
def Message.bytes (m : Message) : List Byte := m.code :: m.rest

/-- The length `MsgLen()` reports for it (R40). -/
def Message.length (m : Message) : Nat := m.rest.length + 1

/-- `decode_speed(b)` of R74: the level whose code is `b`, or `none` for `bad`. -/
def SpeedCode.decodeSpeed (C : SpeedCode) (b : Byte) : Option Speed :=
  Speed.all.find? fun k => C.of k == b

/-- The power level `p[4:0]` of R73 and R125: the low five bits, by mask and not by clamp (90_conflicts.md C1). -/
def powerLevel (p : Byte) : BitVec 5 := p.extractLsb' 0 5

/-- The signal of an auxiliary line (R22, R104). -/
def AuxLine.signal : AuxLine → Signal
  | .aux1 => .aux1
  | .aux2 => .aux2
  | .aux3 => .aux3
  | .aux4 => .aux4

/-- The bit of an auxiliary level: On is 1 (R104). -/
def AuxLevel.bit : AuxLevel → Bool
  | .on  => true
  | .off => false

/-- The direction signal of a motor (R120). -/
def Motor.dirSignal : Motor → Signal
  | .a => .dirA
  | .b => .dirB

/-- The direction bit of R120: for Motor B the polarity is inverted. -/
def directionBit : Motor → Direction → Bool
  | .a, .forward  => false
  | .a, .backward => true
  | .b, .forward  => true
  | .b, .backward => false

/-- `line1` of the selector table of R127. -/
def Microstep.line1 : Microstep → Bool
  | .full      => false
  | .half      => true
  | .quarter   => false
  | .sixteenth => true

/-- `line2` of the selector table of R127. -/
def Microstep.line2 : Microstep → Bool
  | .full      => false
  | .half      => false
  | .quarter   => true
  | .sixteenth => true

/-- The SLEEP bit of R132: MotorsOff sets it. -/
def SleepMode.bit : SleepMode → Bool
  | .motorsOff => true
  | .motorsOn  => false

/-- The mode the Sleep Off code selects, given the one Sleep On selects (`SLEEP_CMD_MAP`). For the default map R133 and R134 state it;
that it is the other mode under the other map too is the model's choice. DESIGN CHOICE, log 16; unsafe. -/
def SleepMode.other : SleepMode → SleepMode
  | .motorsOff => .motorsOn
  | .motorsOn  => .motorsOff

/-- The RST_REL bit of R135: Off sets it, On clears it. -/
def ResetState.bit : ResetState → Bool
  | .off => true
  | .on  => false

/-- The enable bit of R154. -/
def RunMode.bit : RunMode → Bool
  | .on  => true
  | .off => false

/-- `bit ? m : 0x00`: a value already standing at its mask's positions (R100). -/
def Byte.at (m : Byte) (bit : Bool) : Byte := if bit then m else 0#8

end Sys2Proof
end

