-- ==== Sys2Proof/Syntax.lean ====
section
/-! DEFINITION. The 27 commands of rule R76 (spec/opcode_table.json), one constructor a row. -/

namespace Sys2Proof

/-- A command of R76. The F1 commands carry no operand (R75); the three F2 commands carry their parameter byte `p` = `Rx(1)` as
it came (R152, R153, R126 name that byte as the operand), so no bit of a message is lost in decoding. -/
inductive Instr where
  | aux1On
  | aux1Off
  | aux2On
  | aux2Off
  | aux3On
  | aux3Off
  | aux4On
  | aux4Off
  | resetOn
  | resetOff
  | sleepOn
  | sleepOff
  | motorAOn
  | motorAOff
  | motorBOn
  | motorBOff
  | motorAForward
  | motorABackward
  | motorBForward
  | motorBBackward
  | microstepFull
  | microstepHalf
  | microstepQuarter
  | microstepSixteenth
  | speedA (p : Byte)
  | speedB (p : Byte)
  | power (p : Byte)
deriving DecidableEq, Repr

end Sys2Proof
end

