-- ==== Sys2Proof/WellFormed.lean ====
section
/-! DEFINITION. What a legal instance of the block is (the constraints of R8, R23, R74, R77 and R28 on its parameters), and which
commands the source defines (R79): all but a SPEED_A or SPEED_B whose byte is no level's code. -/

namespace Sys2Proof

/-- R23: every signal lies on a port of the block. -/
abbrev Layout.InRange (L : Layout) (nports : Nat) : Prop := ∀ g ∈ Signal.all, (L.at g).port < nports

/-- R23 (1): no two signals share a place. -/
abbrev Layout.Injective (L : Layout) : Prop := (Signal.all.map L.at).Nodup

/-- R23, its three constraints and the range of the ports. -/
abbrev Layout.WF (L : Layout) (nports : Nat) : Prop :=
  L.InRange nports ∧ L.Injective ∧ L.dirA.port = L.dirB.port ∧ L.ms1.port = L.ms2.port

/-- The 27 code bytes in the order of R76. -/
def CmdCode.codes (K : CmdCode) : List Byte :=
  [K.aux1On, K.aux1Off, K.aux2On, K.aux2Off, K.aux3On, K.aux3Off, K.aux4On, K.aux4Off,
   K.resetOn, K.resetOff, K.sleepOn, K.sleepOff, K.motorAOn, K.motorAOff, K.motorBOn, K.motorBOff] ++
  [K.motorAForward, K.motorABackward, K.motorBForward, K.motorBBackward,
   K.microstepFull, K.microstepHalf, K.microstepQuarter, K.microstepSixteenth,
   K.speedA, K.speedB, K.power]

/-- R77: the 27 commands have 27 distinct codes. -/
abbrev CmdCode.WF (K : CmdCode) : Prop := K.codes.Nodup

/-- R74: `SPEED_CODE` is injective. -/
abbrev SpeedCode.WF (C : SpeedCode) : Prop := (Speed.all.map C.of).Nodup

/-- R28: `TIMER_OF(A) != TIMER_OF(B)`. -/
abbrev TimerOf.WF (T : TimerOf) : Prop := T.a ≠ T.b

/-- A legal instance of the block (R8). -/
abbrev Params.WF (P : Params) : Prop :=
  1 ≤ P.nports ∧ P.resetForeign.length = P.nports ∧ P.layout.WF P.nports ∧ P.cmdCode.WF ∧ P.speedCode.WF ∧ P.timerOf.WF

/-- R79: every POWER byte is legal, and a speed byte is either a level's code or undefined. An ill-formed command still has the
effect R202 gives it. -/
def Instr.WF (C : SpeedCode) : Instr → Bool
  | .speedA p => (C.decodeSpeed p).isSome
  | .speedB p => (C.decodeSpeed p).isSome
  | .aux1On | .aux1Off | .aux2On | .aux2Off | .aux3On | .aux3Off | .aux4On | .aux4Off
  | .resetOn | .resetOff | .sleepOn | .sleepOff | .motorAOn | .motorAOff | .motorBOn | .motorBOff
  | .motorAForward | .motorABackward | .motorBForward | .motorBBackward
  | .microstepFull | .microstepHalf | .microstepQuarter | .microstepSixteenth
  | .power _ => true

end Sys2Proof
end

