-- ==== Sys2Proof/Decode.lean ====
section
/-! DEFINITION. The decoder of R80, over any `CMD_CODE`, the encoder written from the same table (R76), and the opcode table's own
numbering of a word's bits. The outcome BadSpeedArg of R80 is a SPEED command whose parameter byte is no level's code: the
decoder hands the byte on and the command itself raises the fault (R152, R202; DESIGN CHOICE, log 6). -/

namespace Sys2Proof

/-- The format of a code of R71, with the command it selects: F1 is the command alone, F2 waits for its parameter byte. -/
inductive Form where
  | f1 (i : Instr)
  | f2 (withParam : Byte → Instr)

/-- The opcode map of R76: a code byte and what it selects. -/
def CmdCode.table (K : CmdCode) : List (Byte × Form) :=
  [(K.aux1On, .f1 .aux1On), (K.aux1Off, .f1 .aux1Off),
   (K.aux2On, .f1 .aux2On), (K.aux2Off, .f1 .aux2Off),
   (K.aux3On, .f1 .aux3On), (K.aux3Off, .f1 .aux3Off),
   (K.aux4On, .f1 .aux4On), (K.aux4Off, .f1 .aux4Off),
   (K.resetOn, .f1 .resetOn), (K.resetOff, .f1 .resetOff),
   (K.sleepOn, .f1 .sleepOn), (K.sleepOff, .f1 .sleepOff),
   (K.motorAOn, .f1 .motorAOn), (K.motorAOff, .f1 .motorAOff),
   (K.motorBOn, .f1 .motorBOn), (K.motorBOff, .f1 .motorBOff)] ++
  [(K.motorAForward, .f1 .motorAForward), (K.motorABackward, .f1 .motorABackward),
   (K.motorBForward, .f1 .motorBForward), (K.motorBBackward, .f1 .motorBBackward),
   (K.microstepFull, .f1 .microstepFull), (K.microstepHalf, .f1 .microstepHalf),
   (K.microstepQuarter, .f1 .microstepQuarter), (K.microstepSixteenth, .f1 .microstepSixteenth),
   (K.speedA, .f2 .speedA), (K.speedB, .f2 .speedB), (K.power, .f2 .power)]

/-- The row a code byte selects; the whole byte is matched (R77). `none` is an unrecognized code (R78). -/
def CmdCode.find (K : CmdCode) (c : Byte) : Option Form := K.table.lookup c

/-- What a message decodes to (R80). -/
inductive Decoded where
  /-- a command with its operand -/
  | cmd (i : Instr)
  /-- `Rx(0)` is no command's code (R78) -/
  | unrecognized
  /-- an F2 command with no parameter byte in the message (R72) -/
  | shortMessage
deriving DecidableEq, Repr

/-- `decode(n, Rx)` of R80 on one message. The code alone selects the format (R71); the code is looked up before the length is
checked (R204); bytes beyond those the format needs are ignored (R72). -/
def decode (K : CmdCode) (m : Message) : Decoded :=
  match K.find m.code, m.rest with
  | none, _ => .unrecognized
  | some (.f1 i), _ => .cmd i
  | some (.f2 _), [] => .shortMessage
  | some (.f2 withParam), p :: _ => .cmd (withParam p)

/-- `CMD_CODE` of a command (R76). -/
def CmdCode.of (K : CmdCode) : Instr → Byte
  | .aux1On             => K.aux1On
  | .aux1Off            => K.aux1Off
  | .aux2On             => K.aux2On
  | .aux2Off            => K.aux2Off
  | .aux3On             => K.aux3On
  | .aux3Off            => K.aux3Off
  | .aux4On             => K.aux4On
  | .aux4Off            => K.aux4Off
  | .resetOn            => K.resetOn
  | .resetOff           => K.resetOff
  | .sleepOn            => K.sleepOn
  | .sleepOff           => K.sleepOff
  | .motorAOn           => K.motorAOn
  | .motorAOff          => K.motorAOff
  | .motorBOn           => K.motorBOn
  | .motorBOff          => K.motorBOff
  | .motorAForward      => K.motorAForward
  | .motorABackward     => K.motorABackward
  | .motorBForward      => K.motorBForward
  | .motorBBackward     => K.motorBBackward
  | .microstepFull      => K.microstepFull
  | .microstepHalf      => K.microstepHalf
  | .microstepQuarter   => K.microstepQuarter
  | .microstepSixteenth => K.microstepSixteenth
  | .speedA _           => K.speedA
  | .speedB _           => K.speedB
  | .power _            => K.power

/-- The bytes after the code: none for F1, the parameter byte for F2 (R70, R71). -/
def Instr.params : Instr → List Byte
  | .speedA p => [p]
  | .speedB p => [p]
  | .power p  => [p]
  | .aux1On | .aux1Off | .aux2On | .aux2Off | .aux3On | .aux3Off | .aux4On | .aux4Off
  | .resetOn | .resetOff | .sleepOn | .sleepOff | .motorAOn | .motorAOff | .motorBOn | .motorBOff
  | .motorAForward | .motorABackward | .motorBForward | .motorBBackward
  | .microstepFull | .microstepHalf | .microstepQuarter | .microstepSixteenth => []

/-- The message of a command (R70, R76). -/
def encode (K : CmdCode) (i : Instr) : Message := ⟨K.of i, i.params⟩

/-- The message whose bits are `w` as the opcode table numbers them: byte 0 is bits 7..0, byte 1 bits 15..8; the bits from `nbits`
on are 0, and the message is as long as its code's format asks (R71). -/
def messageOfWord (K : CmdCode) (nbits w : Nat) : Message :=
  let v := w % 2 ^ nbits
  let c := BitVec.ofNat 8 v
  match K.find c with
  | some (.f2 _) => ⟨c, [BitVec.ofNat 8 (v / 256)]⟩
  | some (.f1 _) => ⟨c, []⟩
  | none => ⟨c, []⟩

/-- The command the decoder reads from a word of the opcode table, under the default codes. -/
def decodeTableWord (nbits w : Nat) : Option Instr :=
  match decode Params.default.cmdCode (messageOfWord Params.default.cmdCode nbits w) with
  | .cmd i        => some i
  | .unrecognized => none
  | .shortMessage => none

end Sys2Proof
end

