-- ==== Sys2Proof/Machine/Reset.lean ====
section
/-! DEFINITION. The reset contents of the ports (R39): every signal's bit at its reset value, every foreign bit at
`RESET_FOREIGN`. -/

namespace Sys2Proof

/-- A byte with one bit written. -/
def Byte.put (v : Byte) (b : Fin 8) (x : Bool) : Byte := (v &&& ~~~Byte.mask b) ||| Byte.at (Byte.mask b) x

/-- The reset value of `shadow[p]` (R39, R25). -/
def Params.resetByte (P : Params) (p : Nat) : Byte :=
  Signal.all.foldl
    (fun v g => if (P.layout.at g).port = p then v.put (P.layout.at g).bit (P.resetBit g) else v)
    (P.resetForeign.getD p 0#8)

/-- The reset values of all the ports, port 0 first. -/
def Params.resetBytes (P : Params) : List Byte := (List.range P.nports).map P.resetByte

end Sys2Proof
end

