-- ==== Sys2Proof/Machine/State.lean ====
section
/-! DEFINITION. The state of the block (R20), of the transport it reads (R40), and the parameters of the instance (R8), as plain
data; the reset state (R39); why a step can stop. -/

namespace Sys2Proof.Machine

/-- One physical port: its shadow byte `shadow[p]` (R26) and its output register `port[p]` (R27). Keeping the two together says
that there are as many of the one as of the other (R20: `NPORTS` of each). -/
structure PortRegs where
  shadow : Byte
  out    : Byte
deriving DecidableEq, Repr

/-- One timer slot `tmr[t]` (R28). `none` is the value R20 and R21 give a field that has no known value: at reset (R39) and
after an undefined speed byte (R202). DEDUCED, log 5. -/
structure TimerSlot where
  presc  : Option Config.Presc
  period : Option Config.Period
  en     : Bool
deriving DecidableEq, Repr

/-- The state of the command decoder (R31). -/
inductive DState where
  | idle
  | dispatching
deriving DecidableEq, Repr

/-- The kinds of model fault (R32, R203). -/
inductive FaultKind where
  | shortMessage
  | badSpeedArg
deriving DecidableEq, Repr

/-- A set of fault kinds (R32): one membership bit a kind. -/
structure FaultSet where
  shortMessage : Bool
  badSpeedArg  : Bool
deriving DecidableEq, Repr

/-- A message the transport has still to complete. With `replaces` it arrives over a message that is pending and not yet being
dispatched (R175); without, the transport waits until no message is pending. -/
structure Arrival where
  msg      : Message
  replaces : Bool
deriving DecidableEq, Repr

/-- The whole machine. The first field is constant (R8; DESIGN CHOICE, log 1). `ports` to `faults` are the block's state (R20). `rx` and `msgLen` are
the transport's receive buffer and message length (R40); `rx` holds the bytes written so far from index 0 on. `arrivals` is the
model's own: what the transport will still deliver, in order (DESIGN CHOICE, logs 9 and 10). -/
structure State where
  params   : Params
  ports    : List PortRegs
  tmr0     : TimerSlot
  tmr1     : TimerSlot
  pwr      : Option (BitVec 5)
  dstate   : DState
  faults   : FaultSet
  rx       : List Byte
  msgLen   : Nat
  arrivals : List Arrival
deriving DecidableEq, Repr

/-- Why a step stops. Neither is a fault of the block, which has none that stops it (R203): each marks a state no legal instance
reaches from reset. -/
inductive Fault where
  /-- Raised by the masked update `SET` when its port index is no port of the block (R100 asks 0 <= p < `NPORTS`). DESIGN CHOICE, log 4. Safe: the
  model stops, and no legal layout (R23) names such a port. -/
  | noSuchPort (p : Nat)
  /-- Raised by a step that finds the decoder Dispatching with `MsgLen()` = 0, which the transport's duty R57 (c) rules out.
  DESIGN CHOICE, log 7.
  Safe: the spec gives such a state no step, and none is invented. -/
  | noMessage
deriving DecidableEq, Repr

/-- Why an instruction has no meaning. No instruction of this block is refused. -/
inductive Refusal where
  /-- Raised by an arm of `exec` whose instruction has no meaning yet. Safe: the model says nothing of it. -/
  | notModelled (mnemonic : String)
deriving DecidableEq, Repr

/-- The reset state of the instance with parameters `P` (R39, R220), with the transport empty and nothing to arrive (logs 9
and 10). -/
def State.resetWith (P : Params) : State where
  params   := P
  ports    := P.resetBytes.map fun v => ⟨v, v⟩
  tmr0     := ⟨none, none, false⟩
  tmr1     := ⟨none, none, false⟩
  pwr      := none
  dstate   := .idle
  faults   := ⟨false, false⟩
  rx       := []
  msgLen   := 0
  arrivals := []

/-- The reset state under the defaults of R8. -/
def State.reset : State := State.resetWith Params.default

end Sys2Proof.Machine
end

