-- ==== Sys2Proof/Machine/Ops.lean ====
section
/-! DEFINITION. The named operations over the state: the masked update `SET` and the signal writes made of it, the timer slots,
the power register, and the transport's side (`Rx`, `MsgLen`, `Ack`, the completion of a message). The block takes no trap and
returns from none (R205, R206); the one thing the spec calls raising a fault is in Flags.lean. -/

namespace Sys2Proof.Machine

/-- What a command answers. -/
abbrev Result := Host.Outcome State Fault Refusal

/-- The new shadow byte of R100: the bits of the mask cleared, then the value ORed in, whatever bits the value has (R103). -/
def maskedByte (old m v : Byte) : Byte := (old &&& ~~~m) ||| v

/-- `SET(p, m, v)` of R100: `shadow[p]` gets the new byte, then `port[p]` gets the same one. No other agent sees the state between
the two writes (R101), so they are one update. -/
def State.setMasked (s : State) (p : Nat) (m v : Byte) : Result :=
  match s.ports[p]? with
  | none => .fault (.noSuchPort p)
  | some r =>
    let b := maskedByte r.shadow m v
    .next { s with ports := s.ports.set p ⟨b, b⟩ }

/-- `SET(p, 1 << b, x ? 1 << b : 0)` with (p, b) = `LAYOUT(g)`: one signal written to `x` (R104, R120, R132, R135). -/
def State.setSignal (s : State) (g : Signal) (x : Bool) : Result :=
  let l := s.params.layout.at g
  s.setMasked l.port (Byte.mask l.bit) (Byte.at (Byte.mask l.bit) x)

/-- Two signals of one port written by one `SET` (R127): the port is the first signal's, which R23 (3) makes the second's too. -/
def State.setPair (s : State) (g h : Signal) (x y : Bool) : Result :=
  let l := s.params.layout.at g
  let k := s.params.layout.at h
  s.setMasked l.port (Byte.mask l.bit ||| Byte.mask k.bit)
    (Byte.at (Byte.mask l.bit) x ||| Byte.at (Byte.mask k.bit) y)

/-- Timer slot `tmr[t]` (R28). -/
def State.tmr (s : State) : Slot → TimerSlot
  | .slot0 => s.tmr0
  | .slot1 => s.tmr1

/-- Timer slot `tmr[t]` written. -/
def State.setTmr (s : State) (t : Slot) (c : TimerSlot) : State :=
  match t with
  | .slot0 => { s with tmr0 := c }
  | .slot1 => { s with tmr1 := c }

/-- The timer slot of a motor: `tmr[TIMER_OF(m)]` (R28, R150). -/
def State.motorTmr (s : State) (m : Motor) : TimerSlot := s.tmr (s.params.timerOf.of m)

/-- The timer slot of a motor written. -/
def State.setMotorTmr (s : State) (m : Motor) (c : TimerSlot) : State := s.setTmr (s.params.timerOf.of m) c

/-- `pwr <- v` (R125). -/
def State.setPwr (s : State) (v : BitVec 5) : State := { s with pwr := some v }

/-- `Rx(i)` (R40): byte i of the receive buffer, a free value where no message has written it (log 10). Reading changes nothing (R55). -/
def State.rxByte (s : State) (i : Nat) : Byte := s.rx.getD i (Config.staleRx i)

/-- The pending message, `Rx(0)` .. `Rx(MsgLen()-1)` (R40, R57). Only meaningful while `MsgLen()` is not 0. -/
def State.message (s : State) : Message :=
  ⟨s.rxByte 0, (List.range (s.msgLen - 1)).map fun i => s.rxByte (i + 1)⟩

/-- `Ack()` and the return to Idle (R172): `MsgLen()` reads 0 afterwards. -/
def State.consume (s : State) : State := { s with msgLen := 0, dstate := .idle }

/-- The transport completes a message: its bytes into the buffer from index 0 on, then the length (R57 (a)). -/
def State.deliver (s : State) (m : Message) : State :=
  { s with rx := m.bytes ++ s.rx.drop m.length, msgLen := m.length }

/-- The machine about to execute a message: the message complete in the buffer and the decoder Dispatching (R170). -/
def State.place (s : State) (m : Message) : State := { s.deliver m with dstate := .dispatching }

end Sys2Proof.Machine
end

