-- ==== Sys2Proof/Machine/AuxLines.lean ====
section
/-! DEFINITION. The eight auxiliary-line commands (R104 to R112). -/

namespace Sys2Proof.Machine

/-- `aux_set(k, level)` of R104: the line is set to the level, not inverted (90_conflicts.md C2). -/
def auxSet (k : AuxLine) (level : AuxLevel) (s : State) : Result := s.setSignal k.signal level.bit

/-- AUX1_ON (R105). -/
def execAux1On (s : State) : Result := auxSet .aux1 .on s

/-- AUX1_OFF (R106). -/
def execAux1Off (s : State) : Result := auxSet .aux1 .off s

/-- AUX2_ON (R107). -/
def execAux2On (s : State) : Result := auxSet .aux2 .on s

/-- AUX2_OFF (R108). -/
def execAux2Off (s : State) : Result := auxSet .aux2 .off s

/-- AUX3_ON (R109). -/
def execAux3On (s : State) : Result := auxSet .aux3 .on s

/-- AUX3_OFF (R110). -/
def execAux3Off (s : State) : Result := auxSet .aux3 .off s

/-- AUX4_ON (R111). -/
def execAux4On (s : State) : Result := auxSet .aux4 .on s

/-- AUX4_OFF (R112). -/
def execAux4Off (s : State) : Result := auxSet .aux4 .off s

end Sys2Proof.Machine
end

