-- ==== Sys2Proof/Machine/Encoders.lean ====
section
/-! DEFINITION. The direction, power, microstepping, sleep and reset commands (R120 to R137). Each writes only what its rule names
(R138). -/

namespace Sys2Proof.Machine

/-- `set_direction(m, d)` of R120. -/
def setDirection (m : Motor) (d : Direction) (s : State) : Result := s.setSignal m.dirSignal (directionBit m d)

/-- `set_power(x)` of R125. -/
def setPower (x : Byte) (s : State) : Result := .next (s.setPwr (powerLevel x))

/-- `set_microstepping(r)` of R127: both selector lines in one `SET`. -/
def setMicrostepping (r : Microstep) (s : State) : Result := s.setPair .ms1 .ms2 r.line1 r.line2

/-- `set_sleep(mode)` of R132. -/
def setSleep (mode : SleepMode) (s : State) : Result := s.setSignal .sleep mode.bit

/-- `set_reset(state)` of R135: the driver ICs' reset line, not a reset of the block (R221). -/
def setReset (r : ResetState) (s : State) : Result := s.setSignal .rstRel r.bit

/-- MOTOR_A_FORWARD (R121). -/
def execMotorAForward (s : State) : Result := setDirection .a .forward s

/-- MOTOR_A_BACKWARD (R122). -/
def execMotorABackward (s : State) : Result := setDirection .a .backward s

/-- MOTOR_B_FORWARD (R123). -/
def execMotorBForward (s : State) : Result := setDirection .b .forward s

/-- MOTOR_B_BACKWARD (R124). -/
def execMotorBBackward (s : State) : Result := setDirection .b .backward s

/-- POWER (R126). -/
def execPower (p : Byte) (s : State) : Result := setPower p s

/-- MICROSTEP_FULL (R128). -/
def execMicrostepFull (s : State) : Result := setMicrostepping .full s

/-- MICROSTEP_HALF (R129). -/
def execMicrostepHalf (s : State) : Result := setMicrostepping .half s

/-- MICROSTEP_QUARTER (R130). -/
def execMicrostepQuarter (s : State) : Result := setMicrostepping .quarter s

/-- MICROSTEP_SIXTEENTH (R131). -/
def execMicrostepSixteenth (s : State) : Result := setMicrostepping .sixteenth s

/-- SLEEP_ON (R133): the mode is `SLEEP_CMD_MAP`, by default MotorsOff. -/
def execSleepOn (s : State) : Result := setSleep s.params.sleepOn s

/-- SLEEP_OFF (R134): MotorsOn under the default `SLEEP_CMD_MAP`. Under the other map, for which the spec gives no mode, MotorsOff.
DESIGN CHOICE, log 16; unsafe there. -/
def execSleepOff (s : State) : Result := setSleep s.params.sleepOn.other s

/-- RESET_ON (R136). -/
def execResetOn (s : State) : Result := setReset .on s

/-- RESET_OFF (R137). -/
def execResetOff (s : State) : Result := setReset .off s

end Sys2Proof.Machine
end

