-- ==== Sys2Proof/Machine/Flags.lean ====
section
/-! DEFINITION. The block has no flags and no condition codes (R36). What it has is the sticky set of model faults (R32, R200),
which no command reads. -/

namespace Sys2Proof.Machine

/-- The set with one kind added. -/
def FaultSet.add (f : FaultSet) : FaultKind → FaultSet
  | .shortMessage => { f with shortMessage := true }
  | .badSpeedArg  => { f with badSpeedArg := true }

/-- Membership. -/
def FaultSet.has (f : FaultSet) : FaultKind → Bool
  | .shortMessage => f.shortMessage
  | .badSpeedArg  => f.badSpeedArg

/-- The empty set (R200: reset empties it). -/
def FaultSet.empty : FaultSet := ⟨false, false⟩

/-- `raise Fault(k)` of R200: bookkeeping only; nothing is saved and control does not change (R205). -/
def State.raise (s : State) (k : FaultKind) : State := { s with faults := s.faults.add k }

end Sys2Proof.Machine
end

