-- ==== Sys2Proof/Machine/Timers.lean ====
section
/-! DEFINITION. The timer configuration mux (R150 to R158) and the undefined speed byte (R202). -/

namespace Sys2Proof.Machine

/-- `set_speed(m, k)` of R150: both fields of the motor's slot in one transition (R151), the enable unchanged. -/
def setSpeed (m : Motor) (k : Speed) (s : State) : State :=
  s.setMotorTmr m { s.motorTmr m with
    presc := some (Config.speedTable k).1, period := some (Config.speedTable k).2 }

/-- The effect of BadSpeedArg of R202: the fault is recorded and the motor's slot may hold anything from now on, so both fields
become `none`; its enable stays. -/
def badSpeed (m : Motor) (s : State) : State :=
  (s.setMotorTmr m { s.motorTmr m with presc := none, period := none }).raise .badSpeedArg

/-- `set_speed(m, decode_speed(p))` (R76), with R202 where the byte is no level's code. -/
def speedCommand (m : Motor) (p : Byte) (s : State) : Result :=
  match s.params.speedCode.decodeSpeed p with
  | some k => .next (setSpeed m k s)
  | none   => .next (badSpeed m s)

/-- `run(m, mode)` of R154: the enable only, whether or not a speed was ever set. -/
def run (m : Motor) (mode : RunMode) (s : State) : Result :=
  .next (s.setMotorTmr m { s.motorTmr m with en := mode.bit })

/-- SPEED_A (R152). -/
def execSpeedA (p : Byte) (s : State) : Result := speedCommand .a p s

/-- SPEED_B (R153). -/
def execSpeedB (p : Byte) (s : State) : Result := speedCommand .b p s

/-- MOTOR_A_ON (R155). -/
def execMotorAOn (s : State) : Result := run .a .on s

/-- MOTOR_A_OFF (R156). -/
def execMotorAOff (s : State) : Result := run .a .off s

/-- MOTOR_B_ON (R157). -/
def execMotorBOn (s : State) : Result := run .b .on s

/-- MOTOR_B_OFF (R158). -/
def execMotorBOff (s : State) : Result := run .b .off s

end Sys2Proof.Machine
end

