-- ==== Sys2Proof/Machine/Dispatch.lean ====
section
/-! DEFINITION. The match of R171: one arm per command, each a direct call of its meaning. -/

namespace Sys2Proof.Machine

def exec (i : Instr) (s : State) : Host.Outcome State Fault Refusal :=
  match i with
  | .aux1On => Sys2Proof.Machine.execAux1On s
  | .aux1Off => Sys2Proof.Machine.execAux1Off s
  | .aux2On => Sys2Proof.Machine.execAux2On s
  | .aux2Off => Sys2Proof.Machine.execAux2Off s
  | .aux3On => Sys2Proof.Machine.execAux3On s
  | .aux3Off => Sys2Proof.Machine.execAux3Off s
  | .aux4On => Sys2Proof.Machine.execAux4On s
  | .aux4Off => Sys2Proof.Machine.execAux4Off s
  | .resetOn => Sys2Proof.Machine.execResetOn s
  | .resetOff => Sys2Proof.Machine.execResetOff s
  | .sleepOn => Sys2Proof.Machine.execSleepOn s
  | .sleepOff => Sys2Proof.Machine.execSleepOff s
  | .motorAOn => Sys2Proof.Machine.execMotorAOn s
  | .motorAOff => Sys2Proof.Machine.execMotorAOff s
  | .motorBOn => Sys2Proof.Machine.execMotorBOn s
  | .motorBOff => Sys2Proof.Machine.execMotorBOff s
  | .motorAForward => Sys2Proof.Machine.execMotorAForward s
  | .motorABackward => Sys2Proof.Machine.execMotorABackward s
  | .motorBForward => Sys2Proof.Machine.execMotorBForward s
  | .motorBBackward => Sys2Proof.Machine.execMotorBBackward s
  | .microstepFull => Sys2Proof.Machine.execMicrostepFull s
  | .microstepHalf => Sys2Proof.Machine.execMicrostepHalf s
  | .microstepQuarter => Sys2Proof.Machine.execMicrostepQuarter s
  | .microstepSixteenth => Sys2Proof.Machine.execMicrostepSixteenth s
  | .speedA p => Sys2Proof.Machine.execSpeedA p s
  | .speedB p => Sys2Proof.Machine.execSpeedB p s
  | .power p => Sys2Proof.Machine.execPower p s

end Sys2Proof.Machine
end

