-- ==== Sys2Proof/Machine/Sequencer.lean ====
section
/-! DEFINITION. The Idle/Dispatching state machine of R170 to R173, and the transport's move between two dispatches. -/

namespace Sys2Proof.Machine

/-- R172 after a command: consume the message and return to Idle, in the same transition. -/
def consumeAfter : Result → Result
  | .next s    => .next s.consume
  | .fault r   => .fault r
  | .refused r => .refused r

/-- The Dispatching transition of R171 on a given message: decode, at most one operation, consume. A message with an unrecognized
code has no other effect (R173, R78); a short one only records its fault (R201). -/
def dispatchMessage (m : Message) (s : State) : Result :=
  match decode s.params.cmdCode m with
  | .cmd i        => consumeAfter (exec i s)
  | .unrecognized => .next s.consume
  | .shortMessage => .next (s.raise .shortMessage).consume

/-- The Dispatching transition on the pending message. -/
def dispatch (s : State) : Result :=
  if s.msgLen = 0 then .fault .noMessage else dispatchMessage s.message s

/-- The Idle to Dispatching transition of R170 when a message is pending. When none is, the block has no transition: it waits, and
the step leaves the state as it is (DESIGN CHOICE, log 8). -/
def poll (s : State) : Result :=
  if s.msgLen = 0 then .next s else .next { s with dstate := .dispatching }

/-- A step while Idle. If the transport's next message can arrive (nothing is pending, or it replaces what is, R175), this is the
transport's move; otherwise it is the block's. While Dispatching the transport has no move (R58). DESIGN CHOICE, log 9. -/
def idleStep (s : State) : Result :=
  match s.arrivals with
  | [] => poll s
  | a :: later =>
    if s.msgLen = 0 ∨ a.replaces = true then .next ({ s with arrivals := later }.deliver a.msg) else poll s

/-- One transition (R7). -/
def transition (s : State) : Result :=
  match s.dstate with
  | .idle        => idleStep s
  | .dispatching => dispatch s

end Sys2Proof.Machine
end

