-- ==== Sys2Proof/Machine/Step.lean ====
section
/-! DEFINITION. The step, and the machine about to run a given word of the opcode table. -/

namespace Sys2Proof.Machine

/-- One architectural step: one transition of the dispatcher's state machine, or the transport's move (R7). -/
def step (s : State) : Host.Outcome State Fault Refusal := transition s

/-- The machine with the instruction whose bits are `w` complete in the receive buffer and the decoder Dispatching, so that the
very next step executes it (log 11). -/
def State.withFetchWord (s : State) (nbits w : Nat) : State :=
  s.place (messageOfWord s.params.cmdCode nbits w)

end Sys2Proof.Machine
end

