-- ==== Sys2Proof/Machine/Views.lean ====
section
/-! DEFINITION. What the state means: the derived views of R30, the physical lines (R22, R27), and what the timers and the analog
output do (R29, R159). No command reads any of these; an observation of a `none` gets a free value, its own for each register and
each observation number `n` (R21; log 5). -/

namespace Sys2Proof.Machine

/-- Bit b of `shadow[p]`; false where there is no port p. -/
def State.shadowBit (s : State) (p : Nat) (b : Fin 8) : Bool :=
  match s.ports[p]? with
  | some r => Byte.bit r.shadow b
  | none   => false

/-- Bit b of `port[p]`, the level of one physical line (R27); false where there is no port p. -/
def State.outBit (s : State) (p : Nat) (b : Fin 8) : Bool :=
  match s.ports[p]? with
  | some r => Byte.bit r.out b
  | none   => false

/-- `bit(g)` of R10. -/
def State.bit (s : State) (g : Signal) : Bool := s.shadowBit (s.params.layout.at g).port (s.params.layout.at g).bit

/-- The physical line of a signal (R22, R27). -/
def State.line (s : State) (g : Signal) : Bool := s.outBit (s.params.layout.at g).port (s.params.layout.at g).bit

/-- `direction(m)` of R30; the two motors' polarities differ. -/
def State.direction (s : State) : Motor → Direction
  | .a => if s.bit .dirA = false then .forward else .backward
  | .b => if s.bit .dirB = true then .forward else .backward

/-- `microstep` of R30. -/
def State.microstep (s : State) : Microstep :=
  match s.bit .ms1, s.bit .ms2 with
  | false, false => .full
  | true, false  => .half
  | false, true  => .quarter
  | true, true   => .sixteenth

/-- `sleep` of R30. -/
def State.sleepMode (s : State) : SleepMode := if s.bit .sleep = true then .motorsOff else .motorsOn

/-- `reset` of R30: the driver ICs' reset. -/
def State.resetState (s : State) : ResetState := if s.bit .rstRel = false then .on else .off

/-- `aux(k)` of R30. -/
def State.auxLevel (s : State) (k : AuxLine) : AuxLevel := if s.bit k.signal = true then .on else .off

/-- `run(m)` of R30. -/
def State.runMode (s : State) (m : Motor) : RunMode := if (s.motorTmr m).en = true then .on else .off

/-- The levels whose table pair a slot holds. -/
def TimerSlot.levels (c : TimerSlot) : List Speed :=
  Speed.all.filter fun k => c.presc == some (Config.speedTable k).1 && c.period == some (Config.speedTable k).2

/-- The table is injective: no two levels share a pair. R30 defines `speed(m)` only then; the source does not say that it is. -/
abbrev speedTableInjective : Prop := (Speed.all.map Config.speedTable).Nodup

/-- `speed(m)` of R30: under an injective table the level whose pair the motor's slot holds, if there is one. `none` where R30 leaves
the view undefined: no level's pair, or a table that is not injective. DEDUCED, log 12. -/
def State.speed (s : State) (m : Motor) : Option Speed :=
  if speedTableInjective then (s.motorTmr m).levels.head? else none

/-- `power` of R30; `none` while no level is known (R29). -/
def State.power (s : State) : Option (BitVec 5) := s.pwr

/-- What the n-th observation of the analog output's level sees (R21, R29). That an unknown level is named by the number alone, here
and in the three views below, is the model's choice, log 5. -/
def State.dacLevel (s : State) (n : Nat) : BitVec 5 := s.pwr.getD (Config.freePwr n)

/-- What the n-th observation of slot t's prescale register sees (R21). -/
def State.prescSeen (s : State) (t : Slot) (n : Nat) : Config.Presc := (s.tmr t).presc.getD (Config.freePresc t n)

/-- What the n-th observation of slot t's period register sees (R21). -/
def State.periodSeen (s : State) (t : Slot) (n : Nat) : Config.Period := (s.tmr t).period.getD (Config.freePeriod t n)

/-- The step pulses of slot t at the n-th observation (R159): `none` while it is disabled, the table's rate while both fields are
known, and any rate or none while a field is `none` (R226), each slot's of its own (log 5). -/
def State.stepPulses (s : State) (t : Slot) (n : Nat) : Option Config.Rate :=
  let c := s.tmr t
  match c.en, c.presc, c.period with
  | false, _, _            => none
  | true, some ps, some pr => some (Config.stepRate (ps, pr))
  | true, none, _          => Config.freeRate t n
  | true, some _, none     => Config.freeRate t n

/-- R223: the drivers are out of reset and awake, and motor m's timer runs with a known speed. -/
def State.drives (s : State) (m : Motor) : Bool :=
  s.bit .rstRel && !s.bit .sleep && (s.motorTmr m).en && (s.motorTmr m).presc.isSome && (s.motorTmr m).period.isSome

end Sys2Proof.Machine
end

