-- ==== Sys2Proof/Safety.lean ====
section
/-! DEFINITION. The terms claims are made in: the invariant of the machine, the good end of a run, what a command wrote and what
it left alone. -/

/-- A place no signal owns (R25). -/
abbrev Sys2Proof.Layout.Foreign (L : Sys2Proof.Layout) (p : Nat) (b : Fin 8) : Prop :=
  ∀ g ∈ Sys2Proof.Signal.all, L.at g ≠ ⟨p, b⟩

namespace Sys2Proof.Machine

/-- The layout is legal (R23) for the ports the machine has. -/
abbrev State.Fits (s : State) : Prop := s.params.layout.WF s.ports.length

/-- The legal contents of a timer slot (R28): a pair of the speed table, or no known value. -/
def TimerSlot.Legal (c : TimerSlot) : Prop :=
  (c.presc = none ∧ c.period = none) ∨
    ∃ k, c.presc = some (Config.speedTable k).1 ∧ c.period = some (Config.speedTable k).2

/-- R33: every output register equals its shadow byte. -/
def State.Mirrored (s : State) : Prop := ∀ r ∈ s.ports, r.out = r.shadow

/-- R25: every foreign bit holds its reset value. -/
def State.ForeignKept (s : State) : Prop :=
  ∀ p, p < s.ports.length → ∀ b : Fin 8, s.params.layout.Foreign p b →
    s.shadowBit p b = Byte.bit (s.params.resetForeign.getD p 0#8) b

/-- What holds of every state a legal instance reaches from reset under a transport that keeps its duties (R57): a legal instance
(R8) with as many ports as it says, mirrored ports (R33), untouched foreign bits (R25), legal slots (R28), and a message that
is complete in a buffer of `RXBUF_SIZE` bytes, pending whenever the decoder is Dispatching (R57 (a), (b), (c)). -/
structure State.Inv (s : State) : Prop where
  legal     : s.params.WF
  portCount : s.ports.length = s.params.nports
  mirrored  : s.Mirrored
  foreign   : s.ForeignKept
  slot0     : s.tmr0.Legal
  slot1     : s.tmr1.Legal
  buffered  : s.msgLen ≤ s.rx.length
  inBuffer  : s.rx.length ≤ Config.rxbufSize
  pending   : s.dstate = .dispatching → s.msgLen ≠ 0
  arriving  : ∀ a ∈ s.arrivals, a.msg.length ≤ Config.rxbufSize

/-- R178: Idle, no message pending, and the transport has nothing more to deliver. -/
def State.AtEnd (s : State) : Prop := s.dstate = .idle ∧ s.msgLen = 0 ∧ s.arrivals = []

/-- R178 and R200: the end of a run with no model fault. -/
def State.GoodEnd (s : State) : Prop := s.AtEnd ∧ s.faults = FaultSet.empty

/-- `t` is `s` after one masked update that gave each listed signal its listed bit and did nothing else: every other shadow bit
of every port is as before (R102), the output register of a written port equals its new shadow byte and every other output is
as before (R100), and no other component of the state differs. -/
structure Wrote (s t : State) (w : List (Signal × Bool)) : Prop where
  rest    : t = { s with ports := t.ports }
  count   : t.ports.length = s.ports.length
  written : ∀ gx ∈ w, t.bit gx.1 = gx.2
  kept    : ∀ q b, (∀ gx ∈ w, s.params.layout.at gx.1 ≠ ⟨q, b⟩) → t.shadowBit q b = s.shadowBit q b
  outputs : ∀ q b, t.outBit q b =
    if (∃ gx ∈ w, (s.params.layout.at gx.1).port = q) then t.shadowBit q b else s.outBit q b

/-- The signals a command's operation names (R102): none for the timer and power commands. -/
def namedSignals : Instr → List Signal
  | .aux1On | .aux1Off => [.aux1]
  | .aux2On | .aux2Off => [.aux2]
  | .aux3On | .aux3Off => [.aux3]
  | .aux4On | .aux4Off => [.aux4]
  | .resetOn | .resetOff => [.rstRel]
  | .sleepOn | .sleepOff => [.sleep]
  | .motorAForward | .motorABackward => [.dirA]
  | .motorBForward | .motorBBackward => [.dirB]
  | .microstepFull | .microstepHalf | .microstepQuarter | .microstepSixteenth => [.ms1, .ms2]
  | .motorAOn | .motorAOff | .motorBOn | .motorBOff | .speedA _ | .speedB _ | .power _ => []

/-- The motor whose timer slot a command addresses (R150, R154). -/
def addressedMotor : Instr → Option Motor
  | .motorAOn | .motorAOff | .speedA _ => some .a
  | .motorBOn | .motorBOff | .speedB _ => some .b
  | .aux1On | .aux1Off | .aux2On | .aux2Off | .aux3On | .aux3Off | .aux4On | .aux4Off
  | .resetOn | .resetOff | .sleepOn | .sleepOff
  | .motorAForward | .motorABackward | .motorBForward | .motorBBackward
  | .microstepFull | .microstepHalf | .microstepQuarter | .microstepSixteenth
  | .power _ => none

/-- The speed command of a motor, with its parameter byte (R152, R153). -/
def speedInstr : Motor → Byte → Instr
  | .a, p => .speedA p
  | .b, p => .speedB p

/-- Two states that agree on all a command may read (R26, R27, R28, R29, R32): the parameters and the shadow bytes. They may differ
in their output registers, timer slots, power register, fault set, decoder state and transport. -/
structure SameInputs (s t : State) : Prop where
  params  : t.params = s.params
  shadows : t.ports.map PortRegs.shadow = s.ports.map PortRegs.shadow

/-- In two runs one component went from `a` to `b` and from `a'` to `b'`: both runs left it alone, or both gave it the same value. -/
def SameChange {α : Type} (a b a' b' : α) : Prop := (b = a ∧ b' = a') ∨ b = b'

/-- The runs from `s` to `t` and from `s'` to `t'` did the same: they agree on the parameters and the shadow bytes, every output
register, every field of every slot, the power register and every fault kind were left alone in both or got one value in both,
and both left the decoder's state and the transport alone. -/
structure SameEffect (s t s' t' : State) : Prop where
  inputs   : SameInputs t t'
  outputs  : ∀ p b, SameChange (s.outBit p b) (t.outBit p b) (s'.outBit p b) (t'.outBit p b)
  prescs   : ∀ u, SameChange (s.tmr u).presc (t.tmr u).presc (s'.tmr u).presc (t'.tmr u).presc
  periods  : ∀ u, SameChange (s.tmr u).period (t.tmr u).period (s'.tmr u).period (t'.tmr u).period
  enables  : ∀ u, SameChange (s.tmr u).en (t.tmr u).en (s'.tmr u).en (t'.tmr u).en
  pwr      : SameChange s.pwr t.pwr s'.pwr t'.pwr
  faults   : ∀ k, SameChange (s.faults.has k) (t.faults.has k) (s'.faults.has k) (t'.faults.has k)
  dstate   : t.dstate = s.dstate ∧ t'.dstate = s'.dstate
  rx       : t.rx = s.rx ∧ t'.rx = s'.rx
  msgLen   : t.msgLen = s.msgLen ∧ t'.msgLen = s'.msgLen
  arrivals : t.arrivals = s.arrivals ∧ t'.arrivals = s'.arrivals

end Sys2Proof.Machine
end

