-- ==== Sys2Proof/Certificates/Slice0/Obligations.lean ====
section
/-! DEFINITION. The statements for the provers. They speak of every legal instance of the block, since a state carries its own
parameters (R8). A statement that rests on a choice the spec marks as its own, or on one of the model's, says so. -/

open Sys2Proof Sys2Proof.Machine

/-! ## Encoding -/

/-- Decode and encode agree for all 27 commands, every parameter byte and every injective `CMD_CODE` (R77), and bytes beyond those
the format needs are ignored (R72; that they are is the spec's own choice, 92_eei_decisions.md D14). For a SPEED byte that is no
level's code, where R80's decode answers BadSpeedArg, that the decoder gives back the command with its byte is the model's choice
(log 6). -/
def Obligations.DecodeEncodeAgree : Prop :=
  ∀ K : CmdCode, K.WF → ∀ (i : Instr) (extra : List Byte),
    decode K (encode K i) = .cmd i ∧
    decode K { encode K i with rest := (encode K i).rest ++ extra } = .cmd i

/-- What decodes to a command is that command's encoding followed by ignored bytes (D14): no other message is one. (That a SPEED message
whose byte is no level's code decodes to a command is the model's choice, log 6.) -/
def Obligations.DecodedIsEncoded : Prop :=
  ∀ (K : CmdCode) (m : Message) (i : Instr), decode K m = .cmd i →
    m.code = (encode K i).code ∧ ∃ extra, m.rest = (encode K i).rest ++ extra

/-- The format is selected by the code alone (R71). SPEED_A, SPEED_B and POWER need one parameter byte and use no more; every other
command and every unrecognized code reads no parameter, whatever follows it. (That the shorter message is a ShortMessage and that
further bytes are ignored are the spec's own choices, D13 and D14; that every SPEED byte decodes to a command is the model's,
log 6.) -/
def Obligations.FormatByCode : Prop :=
  ∀ K : CmdCode, K.WF → ∀ c : Byte,
    (c = K.speedA ∨ c = K.speedB ∨ c = K.power →
      decode K ⟨c, []⟩ = .shortMessage ∧
      ∀ p more, decode K ⟨c, p :: more⟩ = decode K ⟨c, [p]⟩ ∧
        ∃ i, decode K ⟨c, [p]⟩ = .cmd i ∧ i.params = [p]) ∧
    (¬ (c = K.speedA ∨ c = K.speedB ∨ c = K.power) →
      (∀ rest, decode K ⟨c, rest⟩ = decode K ⟨c, []⟩) ∧
      decode K ⟨c, []⟩ ≠ .shortMessage ∧
      ∀ i, decode K ⟨c, []⟩ = .cmd i → i.params = [])

/-- R74: a byte selects level k exactly if it is k's code. Under the default codes (the spec's own choice, D11) bytes 1..5 are L1..L5
and no other byte is a level. -/
def Obligations.SpeedByte : Prop :=
  (∀ C : SpeedCode, C.WF → ∀ (b : Byte) (k : Speed), C.decodeSpeed b = some k ↔ C.of k = b) ∧
  (∀ b : Byte, SpeedCode.default.decodeSpeed b = none ↔ b = 0 ∨ 6 ≤ b.toNat)

/-- R78: under the default codes (the spec's own choice, D10) the codes that are no command's are 0x00 and 0x1C .. 0xFF, and a message
with one of them decodes to no command, whatever follows. -/
def Obligations.DefaultUnrecognized : Prop :=
  ∀ c : Byte, ((∀ i : Instr, CmdCode.default.of i ≠ c) ↔ c = 0 ∨ 0x1C ≤ c.toNat) ∧
    (c = 0 ∨ 0x1C ≤ c.toNat → ∀ rest, decode CmdCode.default ⟨c, rest⟩ = .unrecognized)

/-- A few messages written out from R76's default codes (the spec's own choice, D10) and the vectors V10. -/
def Obligations.DefaultWords : Prop :=
  decodeTableWord 8 0x01 = some .aux1On ∧
  decodeTableWord 8 0x0A = some .resetOff ∧
  decodeTableWord 8 0x12 = some .motorABackward ∧
  decodeTableWord 8 0x17 = some .microstepQuarter ∧
  decodeTableWord 16 0x0319 = some (.speedA 3) ∧
  decodeTableWord 16 0x281B = some (.power 0x28) ∧
  decodeTableWord 8 0x00 = none ∧
  decodeTableWord 8 0x1C = none ∧
  decode CmdCode.default ⟨0x1A, []⟩ = .shortMessage

/-! ## The masked update -/

/-- R100 and R103, bit by bit, for any mask and any value, also a value with bits outside its mask: `shadow[p]` gets
`(shadow[p] & ~m) | v`, `port[p]` the same, and nothing else changes. (That the operand is a port index is the spec's reading,
D3.) -/
def Obligations.MaskedUpdate : Prop :=
  ∀ (s : State) (p : Nat) (m v : Byte), p < s.ports.length →
    ∃ t, s.setMasked p m v = .next t ∧
      (∀ b, t.shadowBit p b = ((s.shadowBit p b && !m.bit b) || v.bit b)) ∧
      (∀ b, t.outBit p b = t.shadowBit p b) ∧
      (∀ q b, q ≠ p → t.shadowBit q b = s.shadowBit q b ∧ t.outBit q b = s.outBit q b) ∧
      t.ports.length = s.ports.length ∧ t = { s with ports := t.ports }

/-! ## The commands -/

/-- R104 to R112: each auxiliary command sets its own line to the level it names, and changes no other signal, foreign bit, timer
slot, power register or anything else. (On is bit 1: the spec's own choice, D16.) -/
def Obligations.AuxCommands : Prop :=
  ∀ s : State, s.Fits →
    ∀ c ∈ [(Instr.aux1On, Signal.aux1, true), (.aux1Off, .aux1, false), (.aux2On, .aux2, true), (.aux2Off, .aux2, false),
           (.aux3On, .aux3, true), (.aux3Off, .aux3, false), (.aux4On, .aux4, true), (.aux4Off, .aux4, false)],
      ∃ t, exec c.1 s = .next t ∧ Wrote s t [(c.2.1, c.2.2)]

/-- R120: for Motor A Forward clears the direction bit and Backward sets it, for Motor B the other way round; only that one bit
changes, and no timer slot is touched. -/
def Obligations.DirectionCommands : Prop :=
  ∀ s : State, s.Fits →
    ∀ c ∈ [(Instr.motorAForward, Signal.dirA, false), (.motorABackward, .dirA, true),
           (.motorBForward, .dirB, true), (.motorBBackward, .dirB, false)],
      ∃ t, exec c.1 s = .next t ∧ Wrote s t [(c.2.1, c.2.2)]

/-- R127: the table of the two selector lines, both written in the one update, the only microstep setting there is. -/
def Obligations.MicrostepCommands : Prop :=
  ∀ s : State, s.Fits →
    ∀ c ∈ [(Instr.microstepFull, false, false), (.microstepHalf, true, false),
           (.microstepQuarter, false, true), (.microstepSixteenth, true, true)],
      ∃ t, exec c.1 s = .next t ∧ Wrote s t [(.ms1, c.2.1), (.ms2, c.2.2)]

/-- R132: MotorsOff sets the SLEEP bit, MotorsOn clears it, and nothing else changes, no timer slot either. -/
def Obligations.SetSleepMode : Prop :=
  ∀ s : State, s.Fits → ∀ c ∈ [(SleepMode.motorsOff, true), (.motorsOn, false)],
    ∃ t, setSleep c.1 s = .next t ∧ Wrote s t [(.sleep, c.2)]

/-- R133, R134: under the default map SLEEP_ON sets the bit and SLEEP_OFF clears it (the map and its default are the spec's own choice,
D15). Under the other map SLEEP_ON clears it, as the map says, and that SLEEP_OFF then sets it is the model's choice (log 16). -/
def Obligations.SleepCommands : Prop :=
  ∀ s : State, s.Fits →
    (s.params.sleepOn = .motorsOff →
      (∃ t, exec .sleepOn s = .next t ∧ Wrote s t [(.sleep, true)]) ∧
      ∃ t, exec .sleepOff s = .next t ∧ Wrote s t [(.sleep, false)]) ∧
    (s.params.sleepOn = .motorsOn →
      (∃ t, exec .sleepOn s = .next t ∧ Wrote s t [(.sleep, false)]) ∧
      ∃ t, exec .sleepOff s = .next t ∧ Wrote s t [(.sleep, true)]) ∧
    Params.default.sleepOn = .motorsOff

/-- R135: On clears the reset-release bit, Off sets it; it is no reset of the block, since nothing else changes. -/
def Obligations.ResetCommands : Prop :=
  ∀ s : State, s.Fits → ∀ c ∈ [(Instr.resetOn, false), (.resetOff, true)],
    ∃ t, exec c.1 s = .next t ∧ Wrote s t [(.rstRel, c.2)]

/-- R125: the power register gets the low five bits of the parameter, for every parameter, by mask and not by clamp; no port, no
shadow byte and no timer slot is written. -/
def Obligations.PowerCommand : Prop :=
  ∀ (s : State) (p : Byte), ∃ (t : State) (v : BitVec 5), exec (.power p) s = .next t ∧
    t.pwr = some v ∧ v.setWidth 8 = p &&& 0x1F#8 ∧ v.toNat = p.toNat % 32 ∧ t = { s with pwr := t.pwr }

/-- R150: a speed command with a level's byte puts that level's table pair into its motor's slot, whatever the slot held; the
enable, the other slot and everything else are unchanged. -/
def Obligations.SpeedCommands : Prop :=
  ∀ s : State, s.params.speedCode.WF → ∀ (k : Speed) (m : Motor),
    ∃ t, exec (speedInstr m (s.params.speedCode.of k)) s = .next t ∧
      t.motorTmr m = ⟨some (Config.speedTable k).1, some (Config.speedTable k).2, (s.motorTmr m).en⟩ ∧
      (∀ u, u ≠ s.params.timerOf.of m → t.tmr u = s.tmr u) ∧
      t = { s with tmr0 := t.tmr0, tmr1 := t.tmr1 }

/-- R202: a speed command whose byte is no level's code records BadSpeedArg and leaves its motor's prescale and period without a known
value; the enable, the other slot and everything else are unchanged. (The fault is the spec's own choice, D12;
that the command's meaning raises it, and not the decoder, is the model's, log 6.) -/
def Obligations.UndefinedSpeed : Prop :=
  ∀ (s : State) (p : Byte), s.params.speedCode.decodeSpeed p = none → ∀ m : Motor,
    ∃ t, exec (speedInstr m p) s = .next t ∧
      t.motorTmr m = ⟨none, none, (s.motorTmr m).en⟩ ∧
      (∀ u, u ≠ s.params.timerOf.of m → t.tmr u = s.tmr u) ∧
      t.faults.has .badSpeedArg = true ∧ t.faults.has .shortMessage = s.faults.has .shortMessage ∧
      t = { s with tmr0 := t.tmr0, tmr1 := t.tmr1, faults := t.faults }

/-- R154: On enables the motor's timer and Off disables it; the prescale and period stay, known or not, and so does everything else.
(That a timer without a known speed is enabled too is the spec's own choice, D9.) -/
def Obligations.RunCommands : Prop :=
  ∀ s : State,
    ∀ c ∈ [(Instr.motorAOn, Motor.a, true), (.motorAOff, .a, false), (.motorBOn, .b, true), (.motorBOff, .b, false)],
      ∃ t, exec c.1 s = .next t ∧
        t.motorTmr c.2.1 = { s.motorTmr c.2.1 with en := c.2.2 } ∧
        (∀ u, u ≠ s.params.timerOf.of c.2.1 → t.tmr u = s.tmr u) ∧
        t = { s with tmr0 := t.tmr0, tmr1 := t.tmr1 }

/-- R176, R203: on a legal layout every command completes, whatever its operand and whatever else the state holds. (That a SPEED byte which
is no level's code is a command that completes rests on the spec's own choice D12 and on the model's, log 6.) -/
def Obligations.EveryCommandCompletes : Prop :=
  ∀ s : State, s.Fits → ∀ i : Instr, ∃ t, exec i s = .next t

/-- R138, R161, R174: what each command leaves alone. The slots its motor does not own; both slots, if it addresses no motor; the
ports, if it names no signal; `pwr`, but for POWER; the faults, but for an undefined speed byte; and always the parameters, the
decoder's state and the transport. (The fault of an undefined speed byte is the spec's own choice, D12.) -/
def Obligations.CommandFrame : Prop :=
  ∀ (s t : State) (i : Instr), exec i s = .next t →
    (∀ u, (∀ m, addressedMotor i = some m → s.params.timerOf.of m ≠ u) → t.tmr u = s.tmr u) ∧
    (namedSignals i = [] → t.ports = s.ports) ∧
    ((∀ p, i ≠ .power p) → t.pwr = s.pwr) ∧
    (i.WF s.params.speedCode = true → t.faults = s.faults) ∧
    t.params = s.params ∧ t.dstate = s.dstate ∧ t.rx = s.rx ∧ t.msgLen = s.msgLen ∧ t.arrivals = s.arrivals

/-- R102: a command changes no shadow bit but those of the signals it names, and, where outputs mirror shadows, no line either. -/
def Obligations.MaskDiscipline : Prop :=
  ∀ (s t : State) (i : Instr), s.Fits → exec i s = .next t →
    ∀ (p : Nat) (b : Fin 8), (∀ g ∈ namedSignals i, s.params.layout.at g ≠ ⟨p, b⟩) →
      t.shadowBit p b = s.shadowBit p b ∧ (s.Mirrored → t.outBit p b = s.outBit p b)

/-- R55: a command executed twice leaves what executing it once leaves. -/
def Obligations.CommandsIdempotent : Prop :=
  ∀ (s t : State) (i : Instr), exec i s = .next t → exec i t = .next t

/-- R27, R26: the effect of a command depends on the parameters and the shadow bytes alone; it reads no output register, no timer slot,
no power register, no fault, no decoder state and nothing of the transport. From two states that agree on the parameters and the
shadow bytes it does the same to every component. -/
def Obligations.OutputsNeverRead : Prop :=
  ∀ (s s' t : State) (i : Instr), SameInputs s s' → exec i s = .next t →
    ∃ t', exec i s' = .next t' ∧ SameEffect s t s' t'

/-- R30: after each command its view shows what it commanded (the property X1, for every view; the speed view is in PulsesAfterSpeed),
and the views beside it are as before. Sleep is stated for either `SLEEP_CMD_MAP` (D15; what
SLEEP_OFF selects under the other map is the model's choice, log 16); that an auxiliary line is on at bit 1 is the
spec's own choice (D16). -/
def Obligations.ViewsFollowCommands : Prop :=
  ∀ s t : State, s.Fits →
    (∀ c ∈ [(Instr.motorAForward, Motor.a, Direction.forward), (.motorABackward, .a, .backward),
            (.motorBForward, .b, .forward), (.motorBBackward, .b, .backward)],
      exec c.1 s = .next t → t.direction c.2.1 = c.2.2 ∧ ∀ m, m ≠ c.2.1 → t.direction m = s.direction m) ∧
    (∀ c ∈ [(Instr.microstepFull, Microstep.full), (.microstepHalf, .half), (.microstepQuarter, .quarter),
            (.microstepSixteenth, .sixteenth)],
      exec c.1 s = .next t → t.microstep = c.2) ∧
    (∀ c ∈ [(Instr.resetOn, ResetState.on), (.resetOff, .off)], exec c.1 s = .next t → t.resetState = c.2) ∧
    (∀ c ∈ [(SleepMode.motorsOff, SleepMode.motorsOn), (.motorsOn, .motorsOff)], s.params.sleepOn = c.1 →
      (exec .sleepOn s = .next t → t.sleepMode = c.1) ∧ (exec .sleepOff s = .next t → t.sleepMode = c.2)) ∧
    (∀ c ∈ [(Instr.aux1On, AuxLine.aux1, AuxLevel.on), (.aux1Off, .aux1, .off), (.aux2On, .aux2, .on), (.aux2Off, .aux2, .off),
            (.aux3On, .aux3, .on), (.aux3Off, .aux3, .off), (.aux4On, .aux4, .on), (.aux4Off, .aux4, .off)],
      exec c.1 s = .next t → t.auxLevel c.2.1 = c.2.2 ∧ ∀ k, k ≠ c.2.1 → t.auxLevel k = s.auxLevel k) ∧
    (∀ c ∈ [(Instr.motorAOn, Motor.a, RunMode.on), (.motorAOff, .a, .off), (.motorBOn, .b, .on), (.motorBOff, .b, .off)],
      exec c.1 s = .next t →
        t.runMode c.2.1 = c.2.2 ∧ (s.params.timerOf.WF → ∀ m, m ≠ c.2.1 → t.runMode m = s.runMode m)) ∧
    (∀ p : Byte, exec (.power p) s = .next t → t.power.map BitVec.toNat = some (p.toNat % 32))

/-- R159 and R30: once a level is set, a running slot pulses at the rate of that level's pair and a stopped one not at all, at every
observation; the level is among those the slot's pair belongs to, and the speed view is that level under an injective table and
undefined under any other (R30; log 12). -/
def Obligations.PulsesAfterSpeed : Prop :=
  ∀ (s t : State) (m : Motor) (k : Speed) (n : Nat), s.params.speedCode.WF →
    exec (speedInstr m (s.params.speedCode.of k)) s = .next t →
      (t.stepPulses (s.params.timerOf.of m) n =
        if (s.motorTmr m).en = true then some (Config.stepRate (Config.speedTable k)) else none) ∧
      k ∈ (t.motorTmr m).levels ∧ t.speed m = if speedTableInjective then some k else none

/-- R160: a level's rate is never below that of the next slower level; it may equal it. -/
def Obligations.SpeedOrder : Prop :=
  ∀ k j : Speed, k.slower = some j → Config.stepRate (Config.speedTable k) ≥ Config.stepRate (Config.speedTable j)

/-! ## The dispatcher -/

/-- A step runs the decoded instruction (R171, R172): Dispatching with a message that decodes to a command, the step is the command's
meaning and then, in the same transition, the consumption of the message and the return to Idle. (How a message is consumed is
the spec's own choice, D20; that a SPEED message with an undefined byte is a command is the model's, log 6.) -/
def Obligations.StepRunsDecoded : Prop :=
  ∀ (s : State) (i : Instr), s.dstate = .dispatching → s.msgLen ≠ 0 →
    decode s.params.cmdCode s.message = .cmd i →
      (∀ t, exec i s = .next t → step s = .next { t with msgLen := 0, dstate := .idle }) ∧
      (∀ r, exec i s = .fault r → step s = .fault r) ∧
      (∀ r, exec i s = .refused r → step s = .refused r)

/-- R40, R57: a message the transport completes is read by the block as it was sent, over whatever the buffer held before. -/
def Obligations.MessageAsSent : Prop :=
  ∀ (s : State) (m : Message), (s.deliver m).message = m ∧ (s.deliver m).msgLen = m.length ∧
    ∀ i, i < m.length → (s.deliver m).rxByte i = m.bytes.getD i 0#8

/-- R170: Idle with a message pending (and none arriving over it), the step goes to Dispatching and changes nothing else; with no message
pending and none to arrive it changes nothing. (That waiting is a step which changes nothing is the model's choice, log 8, and so is
the arrival of messages as a list, log 9.) -/
def Obligations.IdleSteps : Prop :=
  ∀ s : State, s.dstate = .idle →
    (s.msgLen ≠ 0 → (∀ a, s.arrivals.head? = some a → a.replaces = false) →
      step s = .next { s with dstate := .dispatching }) ∧
    (s.msgLen = 0 → s.arrivals = [] → step s = .next s)

/-- R173: a message whose code is no command's is consumed and changes no shadow, port, timer slot, `pwr` or fault, whatever its
length and its other bytes. -/
def Obligations.UnrecognizedIgnored : Prop :=
  ∀ s : State, s.dstate = .dispatching → s.msgLen ≠ 0 → (∀ i : Instr, s.params.cmdCode.of i ≠ s.rxByte 0) →
    step s = .next { s with msgLen := 0, dstate := .idle }

/-- R201, R204: a SPEED_A, SPEED_B or POWER message of one byte records ShortMessage, is consumed, and does nothing else. (The fault is
the spec's own choice, D13.) -/
def Obligations.ShortMessageRecorded : Prop :=
  ∀ s : State, s.params.cmdCode.WF → s.dstate = .dispatching → s.msgLen = 1 →
    (s.rxByte 0 = s.params.cmdCode.speedA ∨ s.rxByte 0 = s.params.cmdCode.speedB ∨ s.rxByte 0 = s.params.cmdCode.power) →
    step s = .next { s with faults := { s.faults with shortMessage := true }, msgLen := 0, dstate := .idle }

/-- R172: a message that arrives at an idle machine is executed exactly once: three steps deliver it, take it up and execute it, and
leave the machine Idle with nothing pending and the rest of the transport's messages still to come. (Consumption and the ignoring of
further bytes are the spec's own choices, D20 and D14; arrival as a step, and SPEED messages with an undefined byte as commands, are
the model's, logs 9 and 6.) -/
def Obligations.MessageExecutedOnce : Prop :=
  ∀ (s t : State) (i : Instr) (extra : List Byte) (r : Bool) (later : List Arrival),
    s.params.cmdCode.WF → s.dstate = .idle → s.msgLen = 0 →
    s.arrivals = ⟨⟨s.params.cmdCode.of i, i.params ++ extra⟩, r⟩ :: later →
    (∀ a, later.head? = some a → a.replaces = false) →
    exec i ({ s with arrivals := later }.place ⟨s.params.cmdCode.of i, i.params ++ extra⟩) = .next t →
      core.run 3 s = .next { t with msgLen := 0, dstate := .idle } ∧ t.arrivals = later

/-- R176: Dispatching never blocks. In a state of the invariant it takes one step, after which the decoder is Idle and nothing is
pending (consumption is the spec's own choice, D20). That an idle machine always has a step too is the model's choice where nothing is
pending: waiting is a step that changes nothing (log 8; R170 gives the block none there), and an arrival is a step (log 9). -/
def Obligations.EveryStepCompletes : Prop :=
  ∀ s : State, s.Inv →
    ∃ t, step s = .next t ∧ (s.dstate = .dispatching → t.dstate = .idle ∧ t.msgLen = 0)

/-- R57 (c), R58: while the decoder is Dispatching the buffer and what is still to arrive do not change. (That the transport
keeps still is its duty, D30; its future as a list is the model's choice, log 9.) -/
def Obligations.StableWhileDispatching : Prop :=
  ∀ s t : State, s.dstate = .dispatching → step s = .next t → t.rx = s.rx ∧ t.arrivals = s.arrivals

/-- R57 (e), R54: only an executed message changes an output. Every step that is not a dispatch leaves the ports, the slots, `pwr` and the
faults as they are. (Steps that wait or deliver are the model's choice, logs 8 and 9.) -/
def Obligations.OnlyDispatchWrites : Prop :=
  ∀ s t : State, step s = .next t → s.dstate = .idle →
    t.ports = s.ports ∧ t.tmr0 = s.tmr0 ∧ t.tmr1 = s.tmr1 ∧ t.pwr = s.pwr ∧ t.faults = s.faults

/-! ## Faults -/

/-- R200: a model fault once recorded stays. (The fault set is the spec's own bookkeeping, D22.) -/
def Obligations.FaultsSticky : Prop :=
  ∀ (s t : State) (k : FaultKind), step s = .next t → s.faults.has k = true → t.faults.has k = true

/-- R203, R204: the fault set changes only in a dispatch, by one kind: ShortMessage for a message that decodes short, or BadSpeedArg for a
speed command whose byte is no level's code. (The faults are the spec's own choices, D12 and D13; that the second is a decoded
command's is the model's, log 6.) -/
def Obligations.OnlyTwoFaults : Prop :=
  ∀ s t : State, step s = .next t → t.faults ≠ s.faults →
    s.dstate = .dispatching ∧
    ((decode s.params.cmdCode s.message = .shortMessage ∧ t.faults = { s.faults with shortMessage := true }) ∨
     (∃ p, (decode s.params.cmdCode s.message = .cmd (.speedA p) ∨ decode s.params.cmdCode s.message = .cmd (.speedB p)) ∧
       s.params.speedCode.decodeSpeed p = none ∧ t.faults = { s.faults with badSpeedArg := true }))

/-- Where the model stops, and nowhere else: a command stops only if a signal it names lies on a port the machine lacks (R100 asks
0 <= p < `NPORTS`), under that fault's name; none is refused; and a step finds no message exactly when it is Dispatching with none
pending. (Both stops are the model's choice, logs 4 and 7; no legal instance reaches them.) -/
def Obligations.WhereItStops : Prop :=
  (∀ (s : State) (i : Instr) (r : Fault), exec i s = .fault r →
    ∃ g ∈ namedSignals i, s.ports.length ≤ (s.params.layout.at g).port ∧ r = .noSuchPort (s.params.layout.at g).port) ∧
  (∀ (s : State) (i : Instr) (r : Refusal), exec i s ≠ .refused r) ∧
  (∀ s : State, step s = .fault .noMessage ↔ s.dstate = .dispatching ∧ s.msgLen = 0)

/-! ## Invariants and the whole machine -/

/-- Every step keeps the invariant: legal parameters, mirrored ports (R33), foreign bits at their reset value (R25), timer slots with
legal contents (R28), and a complete message whenever the decoder is Dispatching (R57). -/
def Obligations.InvariantKept : Prop :=
  ∀ s t : State, s.Inv → step s = .next t → t.Inv

/-- The reset state of every legal instance meets the invariant. -/
def Obligations.InvariantAtReset : Prop :=
  ∀ P : Params, P.WF → (State.resetWith P).Inv

/-- R175, R58: any message that fits the buffer may arrive at an idle machine, also over one that is pending, and the invariant holds
after it. -/
def Obligations.ArrivalKeepsInvariant : Prop :=
  ∀ (s : State) (m : Message), s.Inv → s.dstate = .idle → m.length ≤ Config.rxbufSize → (s.deliver m).Inv

/-- R33: where every output equals its shadow byte, it does so after every step. -/
def Obligations.MirrorKept : Prop :=
  ∀ s t : State, s.Mirrored → step s = .next t → t.Mirrored

/-- R25: no step changes a bit that no signal owns, in the shadow bytes or, where outputs mirror them, on the lines. (That nothing else
drives those bits is the spec's own choice, D5.) -/
def Obligations.ForeignBitsKept : Prop :=
  ∀ s t : State, s.Fits → step s = .next t → ∀ (p : Nat) (b : Fin 8), s.params.layout.Foreign p b →
    t.shadowBit p b = s.shadowBit p b ∧ (s.Mirrored → t.outBit p b = s.outBit p b)

/-- R8, R20: no step changes a parameter or the number of ports. -/
def Obligations.ParametersFixed : Prop :=
  ∀ s t : State, step s = .next t → t.params = s.params ∧ t.ports.length = s.ports.length

/-- R29, R21: only an executed POWER writes the power register, and once it has a value it always has one. (That it has none at reset is
the spec's own choice, D8.) -/
def Obligations.PowerWrittenByPower : Prop :=
  ∀ s t : State, step s = .next t →
    (t.pwr ≠ s.pwr → s.dstate = .dispatching ∧ ∃ p, decode s.params.cmdCode s.message = .cmd (.power p)) ∧
    (s.pwr ≠ none → t.pwr ≠ none)

/-- R229: the run commands leave every port, so RST_REL and SLEEP with it; the reset, sleep, direction and microstep commands leave both
timer slots, so a running motor runs on. And R223: if a step makes a motor driven, it executed RESET_OFF, one of the sleep commands,
or a command that addresses this motor's slot; no other command couples to it. -/
def Obligations.NoInterlocks : Prop :=
  (∀ s t : State,
    (∀ i ∈ [Instr.motorAOn, .motorAOff, .motorBOn, .motorBOff], exec i s = .next t →
      t.ports = s.ports ∧ t.bit .rstRel = s.bit .rstRel ∧ t.bit .sleep = s.bit .sleep) ∧
    (∀ i ∈ [Instr.resetOn, .resetOff, .sleepOn, .sleepOff, .motorAForward, .motorABackward, .motorBForward, .motorBBackward,
            .microstepFull, .microstepHalf, .microstepQuarter, .microstepSixteenth], exec i s = .next t →
      t.tmr0 = s.tmr0 ∧ t.tmr1 = s.tmr1)) ∧
  (∀ (s t : State) (m : Motor), s.Fits → step s = .next t → s.drives m = false → t.drives m = true →
    ∃ i, decode s.params.cmdCode s.message = .cmd i ∧
      (i = .resetOff ∨ i = .sleepOn ∨ i = .sleepOff ∨
        ∃ m', addressedMotor i = some m' ∧ s.params.timerOf.of m' = s.params.timerOf.of m))

/-- R178: a run that is at its end stays there. (That waiting is a step is the model's choice, log 8.) -/
def Obligations.EndStays : Prop :=
  ∀ s t : State, s.AtEnd → step s = .next t → t = s

/-- R39, R220: the reset state of every legal instance, signal by signal and component by component. (The values but for RST_REL and the
auxiliary lines are the spec's own choices, D5 to D9, D22, D28.) -/
def Obligations.ResetValues : Prop :=
  ∀ P : Params, P.WF →
    let s := State.resetWith P
    (∀ g, s.bit g = P.resetBit g) ∧
    s.resetState = .on ∧ (∀ k, s.auxLevel k = .off) ∧
    s.Mirrored ∧ s.ForeignKept ∧ s.ports.length = P.nports ∧
    (∀ u, s.tmr u = ⟨none, none, false⟩) ∧ s.pwr = none ∧ s.dstate = .idle ∧ s.faults = FaultSet.empty ∧
    (∀ m, s.drives m = false)

/-- R39: the reset state under the defaults of R8 (the spec's own choices): shadow and port 0 hold 0x10, shadow and port 1 hold 0x00. -/
def Obligations.ResetDefault : Prop :=
  State.reset.ports = [⟨0x10, 0x10⟩, ⟨0x00, 0x00⟩] ∧ State.reset.GoodEnd ∧ State.reset.params.WF
end

