-- ==== Sys2Proof/Laws/Decode.lean ====
section
/-! SUPPORT. The opcode table is searched by code byte; with distinct codes (R77) every row is found, and what is found is a row. -/

namespace Sys2Proof

/-- The form of a command: its row of R76. -/
def Instr.form : Instr → Form
  | .speedA _ => .f2 .speedA
  | .speedB _ => .f2 .speedB
  | .power _  => .f2 .power
  | i         => .f1 i

/-- With distinct keys, a lookup finds the entry that is there. -/
theorem lookup_of_mem {α β : Type} [BEq α] [LawfulBEq α] {l : List (α × β)} (hl : (l.map Prod.fst).Nodup) {a : α} {b : β}
    (h : (a, b) ∈ l) : l.lookup a = some b := by
  induction l with
  | nil => cases h
  | cons x l ih =>
    obtain ⟨c, d⟩ := x
    simp only [List.map_cons, List.nodup_cons] at hl
    rcases List.mem_cons.1 h with h | h
    · cases h
      simp
    · have hne : a ≠ c := fun hc => hl.1 (hc ▸ List.mem_map.2 ⟨_, h, rfl⟩)
      simp [List.lookup, beq_eq_false_iff_ne.2 hne, ih hl.2 h]

/-- A lookup that answers found an entry. -/
theorem mem_of_lookup {α β : Type} [BEq α] [LawfulBEq α] {l : List (α × β)} {a : α} {b : β} (h : l.lookup a = some b) :
    (a, b) ∈ l := by
  induction l with
  | nil => cases h
  | cons x l ih =>
    obtain ⟨c, d⟩ := x
    by_cases hc : a = c
    · subst hc
      simp at h
      simp [h]
    · simp only [List.lookup, beq_eq_false_iff_ne.2 hc] at h
      exact List.mem_cons_of_mem _ (ih h)

@[simp] theorem CmdCode.table_codes (K : CmdCode) : K.table.map Prod.fst = K.codes := rfl

/-- With distinct codes, a command's code selects its row. -/
theorem CmdCode.find_of {K : CmdCode} (hK : K.WF) {c : Byte} {f : Form} (h : (c, f) ∈ K.table) : K.find c = some f :=
  lookup_of_mem (by rwa [CmdCode.table_codes]) h

/-- A code byte that selects something is some row's code. -/
theorem CmdCode.mem_of_find {K : CmdCode} {c : Byte} {f : Form} (h : K.find c = some f) : (c, f) ∈ K.table :=
  mem_of_lookup h

/-- A code byte that selects nothing is no command's code. -/
theorem CmdCode.find_none {K : CmdCode} {c : Byte} (h : K.find c = none) : ∀ f, (c, f) ∉ K.table := by
  intro f hf
  have : (K.table.lookup c).isSome = true := List.lookup_isSome_iff.2 ⟨_, hf, by simp⟩
  rw [show K.table.lookup c = none from h] at this
  cases this

end Sys2Proof
end

