-- ==== Sys2Proof/Laws/State.lean ====
section
/-! SUPPORT. Beside State: what each update leaves in each field, so that no later proof unfolds a record update. -/

namespace Sys2Proof.Machine

@[simp] theorem State.setPwr_params (s : State) (v : BitVec 5) : (s.setPwr v).params = s.params := rfl
@[simp] theorem State.setPwr_ports (s : State) (v : BitVec 5) : (s.setPwr v).ports = s.ports := rfl
@[simp] theorem State.setPwr_tmr0 (s : State) (v : BitVec 5) : (s.setPwr v).tmr0 = s.tmr0 := rfl
@[simp] theorem State.setPwr_tmr1 (s : State) (v : BitVec 5) : (s.setPwr v).tmr1 = s.tmr1 := rfl
@[simp] theorem State.setPwr_pwr (s : State) (v : BitVec 5) : (s.setPwr v).pwr = some v := rfl
@[simp] theorem State.setPwr_dstate (s : State) (v : BitVec 5) : (s.setPwr v).dstate = s.dstate := rfl
@[simp] theorem State.setPwr_faults (s : State) (v : BitVec 5) : (s.setPwr v).faults = s.faults := rfl
@[simp] theorem State.setPwr_rx (s : State) (v : BitVec 5) : (s.setPwr v).rx = s.rx := rfl
@[simp] theorem State.setPwr_msgLen (s : State) (v : BitVec 5) : (s.setPwr v).msgLen = s.msgLen := rfl
@[simp] theorem State.setPwr_arrivals (s : State) (v : BitVec 5) : (s.setPwr v).arrivals = s.arrivals := rfl

@[simp] theorem State.consume_params (s : State) : (s.consume).params = s.params := rfl
@[simp] theorem State.consume_ports (s : State) : (s.consume).ports = s.ports := rfl
@[simp] theorem State.consume_tmr0 (s : State) : (s.consume).tmr0 = s.tmr0 := rfl
@[simp] theorem State.consume_tmr1 (s : State) : (s.consume).tmr1 = s.tmr1 := rfl
@[simp] theorem State.consume_pwr (s : State) : (s.consume).pwr = s.pwr := rfl
@[simp] theorem State.consume_dstate (s : State) : (s.consume).dstate = .idle := rfl
@[simp] theorem State.consume_faults (s : State) : (s.consume).faults = s.faults := rfl
@[simp] theorem State.consume_rx (s : State) : (s.consume).rx = s.rx := rfl
@[simp] theorem State.consume_msgLen (s : State) : (s.consume).msgLen = 0 := rfl
@[simp] theorem State.consume_arrivals (s : State) : (s.consume).arrivals = s.arrivals := rfl

@[simp] theorem State.deliver_params (s : State) (m : Message) : (s.deliver m).params = s.params := rfl
@[simp] theorem State.deliver_ports (s : State) (m : Message) : (s.deliver m).ports = s.ports := rfl
@[simp] theorem State.deliver_tmr0 (s : State) (m : Message) : (s.deliver m).tmr0 = s.tmr0 := rfl
@[simp] theorem State.deliver_tmr1 (s : State) (m : Message) : (s.deliver m).tmr1 = s.tmr1 := rfl
@[simp] theorem State.deliver_pwr (s : State) (m : Message) : (s.deliver m).pwr = s.pwr := rfl
@[simp] theorem State.deliver_dstate (s : State) (m : Message) : (s.deliver m).dstate = s.dstate := rfl
@[simp] theorem State.deliver_faults (s : State) (m : Message) : (s.deliver m).faults = s.faults := rfl
@[simp] theorem State.deliver_rx (s : State) (m : Message) : (s.deliver m).rx = m.bytes ++ s.rx.drop m.length := rfl
@[simp] theorem State.deliver_msgLen (s : State) (m : Message) : (s.deliver m).msgLen = m.length := rfl
@[simp] theorem State.deliver_arrivals (s : State) (m : Message) : (s.deliver m).arrivals = s.arrivals := rfl

@[simp] theorem State.place_params (s : State) (m : Message) : (s.place m).params = s.params := rfl
@[simp] theorem State.place_ports (s : State) (m : Message) : (s.place m).ports = s.ports := rfl
@[simp] theorem State.place_tmr0 (s : State) (m : Message) : (s.place m).tmr0 = s.tmr0 := rfl
@[simp] theorem State.place_tmr1 (s : State) (m : Message) : (s.place m).tmr1 = s.tmr1 := rfl
@[simp] theorem State.place_pwr (s : State) (m : Message) : (s.place m).pwr = s.pwr := rfl
@[simp] theorem State.place_dstate (s : State) (m : Message) : (s.place m).dstate = .dispatching := rfl
@[simp] theorem State.place_faults (s : State) (m : Message) : (s.place m).faults = s.faults := rfl
@[simp] theorem State.place_rx (s : State) (m : Message) : (s.place m).rx = m.bytes ++ s.rx.drop m.length := rfl
@[simp] theorem State.place_msgLen (s : State) (m : Message) : (s.place m).msgLen = m.length := rfl
@[simp] theorem State.place_arrivals (s : State) (m : Message) : (s.place m).arrivals = s.arrivals := rfl

@[simp] theorem State.raise_params (s : State) (k : FaultKind) : (s.raise k).params = s.params := rfl
@[simp] theorem State.raise_ports (s : State) (k : FaultKind) : (s.raise k).ports = s.ports := rfl
@[simp] theorem State.raise_tmr0 (s : State) (k : FaultKind) : (s.raise k).tmr0 = s.tmr0 := rfl
@[simp] theorem State.raise_tmr1 (s : State) (k : FaultKind) : (s.raise k).tmr1 = s.tmr1 := rfl
@[simp] theorem State.raise_pwr (s : State) (k : FaultKind) : (s.raise k).pwr = s.pwr := rfl
@[simp] theorem State.raise_dstate (s : State) (k : FaultKind) : (s.raise k).dstate = s.dstate := rfl
@[simp] theorem State.raise_faults (s : State) (k : FaultKind) : (s.raise k).faults = s.faults.add k := rfl
@[simp] theorem State.raise_rx (s : State) (k : FaultKind) : (s.raise k).rx = s.rx := rfl
@[simp] theorem State.raise_msgLen (s : State) (k : FaultKind) : (s.raise k).msgLen = s.msgLen := rfl
@[simp] theorem State.raise_arrivals (s : State) (k : FaultKind) : (s.raise k).arrivals = s.arrivals := rfl

@[simp] theorem State.setTmr_params (s : State) (t : Slot) (c : TimerSlot) : (s.setTmr t c).params = s.params := by
  cases t <;> rfl
@[simp] theorem State.setTmr_ports (s : State) (t : Slot) (c : TimerSlot) : (s.setTmr t c).ports = s.ports := by
  cases t <;> rfl
@[simp] theorem State.setTmr_pwr (s : State) (t : Slot) (c : TimerSlot) : (s.setTmr t c).pwr = s.pwr := by
  cases t <;> rfl
@[simp] theorem State.setTmr_dstate (s : State) (t : Slot) (c : TimerSlot) : (s.setTmr t c).dstate = s.dstate := by
  cases t <;> rfl
@[simp] theorem State.setTmr_faults (s : State) (t : Slot) (c : TimerSlot) : (s.setTmr t c).faults = s.faults := by
  cases t <;> rfl
@[simp] theorem State.setTmr_rx (s : State) (t : Slot) (c : TimerSlot) : (s.setTmr t c).rx = s.rx := by
  cases t <;> rfl
@[simp] theorem State.setTmr_msgLen (s : State) (t : Slot) (c : TimerSlot) : (s.setTmr t c).msgLen = s.msgLen := by
  cases t <;> rfl
@[simp] theorem State.setTmr_arrivals (s : State) (t : Slot) (c : TimerSlot) : (s.setTmr t c).arrivals = s.arrivals := by
  cases t <;> rfl

/-- A slot reads back what was written to it, and the other slot is as before (R161). -/
@[simp] theorem State.tmr_setTmr (s : State) (t u : Slot) (c : TimerSlot) :
    (s.setTmr t c).tmr u = if u = t then c else s.tmr u := by
  cases t <;> cases u <;> rfl

@[simp] theorem State.setTmr_tmr0 (s : State) (t : Slot) (c : TimerSlot) :
    (s.setTmr t c).tmr0 = if t = .slot0 then c else s.tmr0 := by
  cases t <;> rfl

@[simp] theorem State.setTmr_tmr1 (s : State) (t : Slot) (c : TimerSlot) :
    (s.setTmr t c).tmr1 = if t = .slot1 then c else s.tmr1 := by
  cases t <;> rfl

/-- Writing a slot with what it holds changes nothing. -/
@[simp] theorem State.setTmr_self (s : State) (t : Slot) : s.setTmr t (s.tmr t) = s := by
  cases t <;> rfl

/-- The later of two writes to one slot stands (R55). -/
@[simp] theorem State.setTmr_setTmr (s : State) (t : Slot) (c d : TimerSlot) :
    (s.setTmr t c).setTmr t d = s.setTmr t d := by
  cases t <;> rfl

/-- Only the slots can differ after a slot write (R161). -/
theorem State.setTmr_rest (s : State) (t : Slot) (c : TimerSlot) :
    s.setTmr t c = { s with tmr0 := (s.setTmr t c).tmr0, tmr1 := (s.setTmr t c).tmr1 } := by
  cases t <;> rfl

/-- A write of a slot, or of the fault set, leaves every shadow bit and every output bit. -/
@[simp] theorem State.setTmr_shadowBit (s : State) (t : Slot) (c : TimerSlot) (p : Nat) (b : Fin 8) :
    (s.setTmr t c).shadowBit p b = s.shadowBit p b := by
  cases t <;> rfl
@[simp] theorem State.setTmr_outBit (s : State) (t : Slot) (c : TimerSlot) (p : Nat) (b : Fin 8) :
    (s.setTmr t c).outBit p b = s.outBit p b := by
  cases t <;> rfl
@[simp] theorem State.raise_shadowBit (s : State) (k : FaultKind) (p : Nat) (b : Fin 8) :
    (s.raise k).shadowBit p b = s.shadowBit p b := rfl
@[simp] theorem State.raise_outBit (s : State) (k : FaultKind) (p : Nat) (b : Fin 8) :
    (s.raise k).outBit p b = s.outBit p b := rfl
@[simp] theorem State.raise_tmr (s : State) (k : FaultKind) (u : Slot) : (s.raise k).tmr u = s.tmr u := by
  cases u <;> rfl

/-- The levels of a slot are those whose table pair it holds (R30). -/
theorem TimerSlot.mem_levels {c : TimerSlot} {k : Speed} :
    k ∈ c.levels ↔ c.presc = some (Config.speedTable k).1 ∧ c.period = some (Config.speedTable k).2 := by
  have : k ∈ Speed.all := by cases k <;> decide
  simp [TimerSlot.levels, this]

/-- Under an injective table a slot's pair is of one level at most, and `speed` is it (R30). -/
theorem State.speed_eq_some {s : State} {m : Motor} {k : Speed} (h : speedTableInjective) (hk : k ∈ (s.motorTmr m).levels) :
    s.speed m = some k := by
  have uniq : ∀ j ∈ (s.motorTmr m).levels, j = k := fun j hj => by
    have hj' := TimerSlot.mem_levels.1 hj
    have hk' := TimerSlot.mem_levels.1 hk
    refine List.inj_on_of_nodup_map h (by cases j <;> decide) (by cases k <;> decide) (Prod.ext ?_ ?_)
    · exact Option.some.inj (hj'.1.symm.trans hk'.1)
    · exact Option.some.inj (hj'.2.symm.trans hk'.2)
  cases hl : (s.motorTmr m).levels with
  | nil => rw [hl] at hk; cases hk
  | cons j l => simp [State.speed, h, hl, uniq j (by rw [hl]; simp)]

/-- A fault kind once added stays (R200). -/
theorem FaultSet.has_add (f : FaultSet) (k j : FaultKind) :
    (f.add k).has j = (decide (j = k) || f.has j) := by
  cases k <;> cases j <;> rfl

end Sys2Proof.Machine
end

