-- ==== Sys2Proof/Laws/Ops.lean ====
section
/-! SUPPORT. The laws of the masked update (R100 to R103) and of what is made of it: bit by bit, and as the predicate `Wrote`. A
proof about a port-writing command cites these and unfolds nothing. -/

namespace Sys2Proof

@[simp] theorem Byte.bit_mask (b c : Fin 8) : (Byte.mask b).bit c = decide (c = b) := by
  revert b c; decide

@[simp] theorem Byte.bit_at (m : Byte) (x : Bool) (b : Fin 8) : (Byte.at m x).bit b = (x && m.bit b) := by
  cases x <;> simp [Byte.at, Byte.bit]

@[simp] theorem Byte.bit_or (v w : Byte) (b : Fin 8) : Byte.bit (v ||| w) b = (v.bit b || w.bit b) := by
  simp [Byte.bit]

@[simp] theorem Byte.bit_maskedByte (old m v : Byte) (b : Fin 8) :
    (Machine.maskedByte old m v).bit b = ((old.bit b && !m.bit b) || v.bit b) := by
  simp [Machine.maskedByte, Byte.bit]

@[simp] theorem Byte.bit_put (v : Byte) (b c : Fin 8) (x : Bool) :
    (v.put b x).bit c = if c = b then x else v.bit c := by
  change (Machine.maskedByte v (Byte.mask b) (Byte.at (Byte.mask b) x)).bit c = _
  by_cases h : c = b <;> simp [h]

/-- Two bytes with the same bits are one byte. -/
theorem Byte.ext_bit {v w : Byte} (h : ∀ b, v.bit b = w.bit b) : v = w :=
  BitVec.eq_of_getLsbD_eq fun i hi => h ⟨i, hi⟩

namespace Machine

theorem State.setMasked_eq (s : State) {p : Nat} {r : PortRegs} (h : s.ports[p]? = some r) (m v : Byte) :
    s.setMasked p m v =
      .next { s with ports := s.ports.set p ⟨maskedByte r.shadow m v, maskedByte r.shadow m v⟩ } := by
  simp [State.setMasked, h]

/-- All a masked update can do when it answers. -/
theorem State.setMasked_cases {s t : State} {p : Nat} {m v : Byte} (h : s.setMasked p m v = .next t) :
    ∃ r, s.ports[p]? = some r ∧
      t = { s with ports := s.ports.set p ⟨maskedByte r.shadow m v, maskedByte r.shadow m v⟩ } := by
  unfold State.setMasked at h
  split at h
  · cases h
  · rename_i r hr
    exact ⟨r, hr, by simpa using h.symm⟩

/-- The shadow bits after a masked update. -/
theorem State.setMasked_shadowBit {s t : State} {p : Nat} {m v : Byte} (h : s.setMasked p m v = .next t)
    (q : Nat) (b : Fin 8) :
    t.shadowBit q b = if q = p then ((s.shadowBit q b && !m.bit b) || v.bit b) else s.shadowBit q b := by
  obtain ⟨r, hr, rfl⟩ := State.setMasked_cases h
  obtain ⟨hp, hr'⟩ := List.getElem?_eq_some_iff.1 hr
  by_cases hq : q = p
  · subst hq
    simp [State.shadowBit, hp, hr']
  · simp [State.shadowBit, hq, Ne.symm hq]

/-- The output bits after a masked update. -/
theorem State.setMasked_outBit {s t : State} {p : Nat} {m v : Byte} (h : s.setMasked p m v = .next t)
    (q : Nat) (b : Fin 8) : t.outBit q b = if q = p then t.shadowBit q b else s.outBit q b := by
  obtain ⟨r, hr, rfl⟩ := State.setMasked_cases h
  obtain ⟨hp, hr'⟩ := List.getElem?_eq_some_iff.1 hr
  by_cases hq : q = p
  · subst hq
    simp [State.shadowBit, State.outBit, hp]
  · simp [State.outBit, hq, Ne.symm hq]

/-- A masked update whose mask is the bits of the listed signals and whose value is theirs writes those signals alone. -/
theorem State.setMasked_wrote {s t : State} {w : List (Signal × Bool)} {p : Nat} {m v : Byte}
    (h : s.setMasked p m v = .next t) (hw : w ≠ [])
    (hp : ∀ gx ∈ w, (s.params.layout.at gx.1).port = p)
    (hm : ∀ b : Fin 8, m.bit b = true ↔ ∃ gx ∈ w, (s.params.layout.at gx.1).bit = b)
    (hv : ∀ gx ∈ w, v.bit (s.params.layout.at gx.1).bit = gx.2)
    (hvm : ∀ b : Fin 8, v.bit b = true → m.bit b = true) : Wrote s t w := by
  obtain ⟨r, hr, ht⟩ := State.setMasked_cases h
  have hpar : t.params = s.params := by simp [ht]
  refine ⟨by simp [ht], by simp [ht], fun gx hgx => ?_, fun q b hqb => ?_, fun q b => ?_⟩
  · have hmb := (hm (s.params.layout.at gx.1).bit).2 ⟨gx, hgx, rfl⟩
    simp [State.bit, hpar, State.setMasked_shadowBit h, hp gx hgx, hmb, hv gx hgx]
  · rw [State.setMasked_shadowBit h]
    split
    · rename_i hq
      have hmb : m.bit b = false := by
        by_contra hc
        obtain ⟨gx, hgx, hb⟩ := (hm b).1 (by simpa using hc)
        exact hqb gx hgx (by rw [hq, ← hp gx hgx, ← hb])
      have hvb : v.bit b = false := by
        by_contra hc
        rw [hvm b (by simpa using hc)] at hmb
        cases hmb
      simp [hmb, hvb]
    · rfl
  · rw [State.setMasked_outBit h]
    have : (∃ gx ∈ w, (s.params.layout.at gx.1).port = q) ↔ q = p := by
      constructor
      · rintro ⟨gx, hgx, rfl⟩
        exact hp gx hgx
      · rintro rfl
        obtain ⟨gx, hgx⟩ := List.exists_mem_of_ne_nil w hw
        exact ⟨gx, hgx, hp gx hgx⟩
    simp [this]

theorem State.Fits.port_lt {s : State} (h : s.Fits) (g : Signal) :
    (s.params.layout.at g).port < s.ports.length :=
  h.1 g (by cases g <;> decide)

/-- All a one-signal write can do when it answers. -/
theorem State.setSignal_wrote {s t : State} {g : Signal} {x : Bool} (h : s.setSignal g x = .next t) :
    Wrote s t [(g, x)] :=
  State.setMasked_wrote h (by simp) (by simp) (by simp [eq_comm]) (by simp) (by simp)

theorem State.setSignal_next {s : State} (h : s.Fits) (g : Signal) (x : Bool) : ∃ t, s.setSignal g x = .next t :=
  ⟨_, State.setMasked_eq s (List.getElem?_eq_getElem (h.port_lt g)) _ _⟩

theorem State.setPair_next {s : State} (h : s.Fits) (g k : Signal) (x y : Bool) :
    ∃ t, s.setPair g k x y = .next t :=
  ⟨_, State.setMasked_eq s (List.getElem?_eq_getElem (h.port_lt g)) _ _⟩

/-- The selector lines are two different bits of one port (R23). -/
theorem State.Fits.ms_bits {s : State} (h : s.Fits) : s.params.layout.ms1.bit ≠ s.params.layout.ms2.bit := by
  intro hb
  have hinj : s.params.layout.Injective := h.2.1
  have hne : s.params.layout.ms1 ≠ s.params.layout.ms2 := by
    simp only [Layout.Injective, Signal.all, List.map_cons, List.map_nil, List.nodup_cons, Layout.at, List.mem_cons,
      not_or] at hinj
    exact hinj.2.2.1.1
  have hp : s.params.layout.ms1.port = s.params.layout.ms2.port := h.2.2.2
  cases h1 : s.params.layout.ms1
  cases h2 : s.params.layout.ms2
  simp_all

/-- All a write of the two selector lines can do when it answers. -/
theorem State.setPair_wrote {s t : State} {x y : Bool} (hf : s.Fits) (h : s.setPair .ms1 .ms2 x y = .next t) :
    Wrote s t [(.ms1, x), (.ms2, y)] := by
  have hport : s.params.layout.ms1.port = s.params.layout.ms2.port := hf.2.2.2
  have hne := hf.ms_bits
  refine State.setMasked_wrote h (by simp) ?_ ?_ ?_ ?_
  · simp [Layout.at, hport]
  · intro b
    simp [Layout.at, @eq_comm _ b]
  · simp [Layout.at, hne, Ne.symm hne]
  · intro b
    simp [Layout.at]
    tauto

end Machine

end Sys2Proof
end

