-- ==== Sys2Proof/Laws/Exec.lean ====
section
/-! SUPPORT. Everything a command can do, said once: it writes the signals it names, or it writes its motor's timer slot, or it
writes the power register. -/

namespace Sys2Proof.Machine

/-- The shapes of a command's effect (R171). -/
inductive Effect (i : Instr) (s t : State) : Prop where
  /-- one masked update of the named signals -/
  | signals (w : List (Signal × Bool)) (names : w.map Prod.fst = namedSignals i) (none : addressedMotor i = none)
      (wrote : Wrote s t w)
  /-- the addressed motor's slot, and no fault -/
  | slot (m : Motor) (c : TimerSlot) (motor : addressedMotor i = some m) (none : namedSignals i = [])
      (legal : (s.motorTmr m).Legal → c.Legal) (eq : t = s.setMotorTmr m c)
  /-- an undefined speed byte (R202) -/
  | undefinedSpeed (m : Motor) (motor : addressedMotor i = some m) (none : namedSignals i = [])
      (bad : i.WF s.params.speedCode = false) (eq : t = badSpeed m s)
  /-- the power register -/
  | power (p : Byte) (instr : i = .power p) (eq : t = s.setPwr (powerLevel p))

theorem speedCommand_effect {i : Instr} {m : Motor} {p : Byte} {s t : State} (hm : addressedMotor i = some m)
    (hn : namedSignals i = []) (hwf : i.WF s.params.speedCode = (s.params.speedCode.decodeSpeed p).isSome)
    (h : speedCommand m p s = .next t) : Effect i s t := by
  unfold speedCommand at h
  split at h <;> rename_i hd
  · rename_i k
    exact .slot m _ hm hn (fun _ => .inr ⟨k, rfl, rfl⟩) (by simpa [setSpeed] using h.symm)
  · exact .undefinedSpeed m hm hn (by simp [hwf, hd]) (by simpa using h.symm)

theorem run_effect {i : Instr} {m : Motor} {mode : RunMode} {s t : State} (hm : addressedMotor i = some m)
    (hn : namedSignals i = []) (h : run m mode s = .next t) : Effect i s t := by
  simp only [run, Host.Outcome.next.injEq] at h
  exact .slot m { s.motorTmr m with en := mode.bit } hm hn (fun hl => hl) h.symm

/-- What a command did when it answered a next state, on a legal layout. -/
theorem exec_effect {i : Instr} {s t : State} (hf : s.Fits) (h : exec i s = .next t) : Effect i s t := by
  cases i
  case aux1On | aux1Off | aux2On | aux2Off | aux3On | aux3Off | aux4On | aux4Off | resetOn | resetOff | sleepOn | sleepOff
      | motorAForward | motorABackward | motorBForward | motorBBackward =>
    exact .signals [_] rfl rfl (State.setSignal_wrote h)
  case microstepFull | microstepHalf | microstepQuarter | microstepSixteenth =>
    exact .signals [_, _] rfl rfl (State.setPair_wrote hf h)
  case motorAOn | motorAOff | motorBOn | motorBOff => exact run_effect rfl rfl h
  case speedA p => exact speedCommand_effect rfl rfl rfl h
  case speedB p => exact speedCommand_effect rfl rfl rfl h
  case power p => exact .power p rfl (by simpa [exec, execPower, setPower] using h.symm)

end Sys2Proof.Machine
end

