-- ==== Sys2Proof/Laws/Operands.lean ====
section
/-! SUPPORT. The speed byte (R74): the search over the five levels written out, and a level's own code found. -/

namespace Sys2Proof

theorem SpeedCode.decodeSpeed_eq (C : SpeedCode) (b : Byte) :
    C.decodeSpeed b = if C.l1 = b then some .l1 else if C.l2 = b then some .l2 else if C.l3 = b then some .l3
      else if C.l4 = b then some .l4 else if C.l5 = b then some .l5 else none := by
  simp only [SpeedCode.decodeSpeed, Speed.all, List.find?, SpeedCode.of]
  repeat' split
  all_goals simp_all

/-- A level's own byte decodes to it. -/
theorem SpeedCode.decodeSpeed_of {C : SpeedCode} (hC : C.WF) (k : Speed) : C.decodeSpeed (C.of k) = some k := by
  simp only [SpeedCode.WF, Speed.all, List.map_cons, List.map_nil, SpeedCode.of, List.nodup_cons, List.mem_cons,
    List.not_mem_nil, or_false, not_or] at hC
  obtain ⟨⟨h12, h13, h14, h15⟩, ⟨h23, h24, h25⟩, ⟨h34, h35⟩, h45, -⟩ := hC
  cases k <;> simp [SpeedCode.decodeSpeed_eq, SpeedCode.of, *]

/-- A byte that decodes to a level is that level's code. -/
theorem SpeedCode.of_decodeSpeed {C : SpeedCode} {b : Byte} {k : Speed} (h : C.decodeSpeed b = some k) : C.of k = b := by
  simpa using List.find?_some h

end Sys2Proof
end

