-- ==== Sys2Proof/Laws/PerInstr.lean ====
section
/-! SUPPORT. Statements about every command as syntax, one lemma per constructor. -/

namespace Sys2Proof.Laws.InTable

/-- The command stands in the opcode map of R76 under its own code, in its own format. -/
def Statement (i : Instr) : Prop := ∀ K : CmdCode, (K.of i, i.form) ∈ K.table

theorem aux1On : Statement (.aux1On) := fun K => by
  simp [CmdCode.table, CmdCode.of, Instr.form]

theorem aux1Off : Statement (.aux1Off) := fun K => by
  simp [CmdCode.table, CmdCode.of, Instr.form]

theorem aux2On : Statement (.aux2On) := fun K => by
  simp [CmdCode.table, CmdCode.of, Instr.form]

theorem aux2Off : Statement (.aux2Off) := fun K => by
  simp [CmdCode.table, CmdCode.of, Instr.form]

theorem aux3On : Statement (.aux3On) := fun K => by
  simp [CmdCode.table, CmdCode.of, Instr.form]

theorem aux3Off : Statement (.aux3Off) := fun K => by
  simp [CmdCode.table, CmdCode.of, Instr.form]

theorem aux4On : Statement (.aux4On) := fun K => by
  simp [CmdCode.table, CmdCode.of, Instr.form]

theorem aux4Off : Statement (.aux4Off) := fun K => by
  simp [CmdCode.table, CmdCode.of, Instr.form]

theorem resetOn : Statement (.resetOn) := fun K => by
  simp [CmdCode.table, CmdCode.of, Instr.form]

theorem resetOff : Statement (.resetOff) := fun K => by
  simp [CmdCode.table, CmdCode.of, Instr.form]

theorem sleepOn : Statement (.sleepOn) := fun K => by
  simp [CmdCode.table, CmdCode.of, Instr.form]

theorem sleepOff : Statement (.sleepOff) := fun K => by
  simp [CmdCode.table, CmdCode.of, Instr.form]

theorem motorAOn : Statement (.motorAOn) := fun K => by
  simp [CmdCode.table, CmdCode.of, Instr.form]

theorem motorAOff : Statement (.motorAOff) := fun K => by
  simp [CmdCode.table, CmdCode.of, Instr.form]

theorem motorBOn : Statement (.motorBOn) := fun K => by
  simp [CmdCode.table, CmdCode.of, Instr.form]

theorem motorBOff : Statement (.motorBOff) := fun K => by
  simp [CmdCode.table, CmdCode.of, Instr.form]

theorem motorAForward : Statement (.motorAForward) := fun K => by
  simp [CmdCode.table, CmdCode.of, Instr.form]

theorem motorABackward : Statement (.motorABackward) := fun K => by
  simp [CmdCode.table, CmdCode.of, Instr.form]

theorem motorBForward : Statement (.motorBForward) := fun K => by
  simp [CmdCode.table, CmdCode.of, Instr.form]

theorem motorBBackward : Statement (.motorBBackward) := fun K => by
  simp [CmdCode.table, CmdCode.of, Instr.form]

theorem microstepFull : Statement (.microstepFull) := fun K => by
  simp [CmdCode.table, CmdCode.of, Instr.form]

theorem microstepHalf : Statement (.microstepHalf) := fun K => by
  simp [CmdCode.table, CmdCode.of, Instr.form]

theorem microstepQuarter : Statement (.microstepQuarter) := fun K => by
  simp [CmdCode.table, CmdCode.of, Instr.form]

theorem microstepSixteenth : Statement (.microstepSixteenth) := fun K => by
  simp [CmdCode.table, CmdCode.of, Instr.form]

theorem speedA (p : Byte) : Statement (.speedA p) := fun K => by
  simp [CmdCode.table, CmdCode.of, Instr.form]

theorem speedB (p : Byte) : Statement (.speedB p) := fun K => by
  simp [CmdCode.table, CmdCode.of, Instr.form]

theorem power (p : Byte) : Statement (.power p) := fun K => by
  simp [CmdCode.table, CmdCode.of, Instr.form]

end Sys2Proof.Laws.InTable
end

