-- ==== Sys2Proof/Laws/Reset.lean ====
section
/-! SUPPORT. The reset bytes bit by bit (R39): every signal's own bit, and `RESET_FOREIGN` on the bits no signal owns (R25). -/

namespace Sys2Proof

/-- One round of the fold that builds a reset byte. -/
def Params.putReset (P : Params) (p : Nat) (v : Byte) (g : Signal) : Byte :=
  if (P.layout.at g).port = p then v.put (P.layout.at g).bit (P.resetBit g) else v

theorem Params.resetByte_eq (P : Params) (p : Nat) :
    P.resetByte p = Signal.all.foldl (P.putReset p) (P.resetForeign.getD p 0#8) := rfl

/-- A round leaves every bit that is not its signal's. -/
theorem Params.bit_putReset_other {P : Params} {p : Nat} {v : Byte} {g : Signal} {b : Fin 8}
    (h : P.layout.at g ≠ ⟨p, b⟩) : (P.putReset p v g).bit b = v.bit b := by
  unfold Params.putReset
  split
  · rename_i hp
    have hb : b ≠ (P.layout.at g).bit := fun hb => h (by rw [← hp, hb])
    simp [hb]
  · rfl

/-- Rounds for signals that lie elsewhere leave a bit. -/
theorem Params.bit_foldl_other {P : Params} {p : Nat} {b : Fin 8} {l : List Signal} (v : Byte)
    (h : ∀ g ∈ l, P.layout.at g ≠ ⟨p, b⟩) : (l.foldl (P.putReset p) v).bit b = v.bit b := by
  induction l generalizing v with
  | nil => rfl
  | cons g l ih =>
    rw [List.foldl_cons, ih _ fun k hk => h k (List.mem_cons_of_mem _ hk), P.bit_putReset_other (h g List.mem_cons_self)]

/-- Among rounds for signals with places of their own, a signal's bit gets its reset value. -/
theorem Params.bit_foldl_own {P : Params} {l : List Signal} (hl : (l.map P.layout.at).Nodup) {g : Signal} (hg : g ∈ l)
    (v : Byte) : (l.foldl (P.putReset (P.layout.at g).port) v).bit (P.layout.at g).bit = P.resetBit g := by
  induction l generalizing v with
  | nil => cases hg
  | cons k l ih =>
    simp only [List.map_cons, List.nodup_cons] at hl
    rw [List.foldl_cons]
    rcases List.mem_cons.1 hg with rfl | hg
    · have hother : ∀ j ∈ l, P.layout.at j ≠ ⟨(P.layout.at g).port, (P.layout.at g).bit⟩ :=
        fun j hj hjg => hl.1 (List.mem_map.2 ⟨j, hj, hjg⟩)
      rw [Params.bit_foldl_other _ hother]
      simp [Params.putReset]
    · exact ih hl.2 hg _

/-- Bit of a signal at reset (R39). -/
theorem Params.bit_resetByte_signal {P : Params} (hP : P.layout.Injective) (g : Signal) :
    (P.resetByte (P.layout.at g).port).bit (P.layout.at g).bit = P.resetBit g :=
  Params.bit_foldl_own hP (by cases g <;> decide) _

/-- A foreign bit at reset (R25). -/
theorem Params.bit_resetByte_foreign {P : Params} {p : Nat} {b : Fin 8} (h : P.layout.Foreign p b) :
    (P.resetByte p).bit b = Byte.bit (P.resetForeign.getD p 0#8) b :=
  Params.bit_foldl_other _ h

namespace Machine

/-- The shadow bits at reset. -/
theorem State.shadowBit_resetWith (P : Params) {p : Nat} (hp : p < P.nports) (b : Fin 8) :
    (State.resetWith P).shadowBit p b = (P.resetByte p).bit b := by
  simp [State.shadowBit, State.resetWith, Params.resetBytes, hp]

end Machine

end Sys2Proof
end

