-- ==== Sys2Proof/Laws/Step.lean ====
section
/-! SUPPORT. Everything a step can do, said once (R170 to R175), and that a message put into the receive buffer is the message
the decoder reads (R40, R57). -/

namespace Sys2Proof.Machine

/-- All a step can do when it answers. -/
inductive StepCase (s t : State) : Prop where
  /-- Idle, nothing pending, nothing to arrive: the block waits -/
  | wait (idle : s.dstate = .idle) (len : s.msgLen = 0) (none : s.arrivals = []) (eq : t = s)
  /-- the transport completes its next message -/
  | arrive (idle : s.dstate = .idle) (a : Arrival) (later : List Arrival) (arr : s.arrivals = a :: later)
      (may : s.msgLen = 0 ∨ a.replaces = true) (eq : t = { s with arrivals := later }.deliver a.msg)
  /-- Idle to Dispatching -/
  | start (idle : s.dstate = .idle) (len : s.msgLen ≠ 0) (eq : t = { s with dstate := .dispatching })
  /-- a command executed and consumed -/
  | command (busy : s.dstate = .dispatching) (len : s.msgLen ≠ 0) (i : Instr) (u : State)
      (dec : decode s.params.cmdCode s.message = .cmd i) (ex : exec i s = .next u) (eq : t = u.consume)
  /-- an unrecognized code consumed -/
  | unrecognized (busy : s.dstate = .dispatching) (len : s.msgLen ≠ 0)
      (dec : decode s.params.cmdCode s.message = .unrecognized) (eq : t = s.consume)
  /-- a short message recorded and consumed -/
  | short (busy : s.dstate = .dispatching) (len : s.msgLen ≠ 0)
      (dec : decode s.params.cmdCode s.message = .shortMessage) (eq : t = (s.raise .shortMessage).consume)

theorem poll_cases {s t : State} (h : poll s = .next t) :
    (s.msgLen = 0 ∧ t = s) ∨ (s.msgLen ≠ 0 ∧ t = { s with dstate := .dispatching }) := by
  unfold poll at h
  split at h <;> rename_i hl
  · exact .inl ⟨hl, by simpa using h.symm⟩
  · exact .inr ⟨hl, by simpa using h.symm⟩

theorem consumeAfter_cases {r : Result} {t : State} (h : consumeAfter r = .next t) :
    ∃ u, r = .next u ∧ t = u.consume := by
  cases r with
  | next u => exact ⟨u, rfl, by simpa [consumeAfter] using h.symm⟩
  | fault => cases h
  | refused => cases h

theorem step_cases {s t : State} (h : step s = .next t) : StepCase s t := by
  unfold step transition at h
  split at h <;> rename_i hd
  · unfold idleStep at h
    split at h <;> rename_i ha
    · rcases poll_cases h with ⟨hl, rfl⟩ | ⟨hl, rfl⟩
      · exact .wait hd hl ha rfl
      · exact .start hd hl rfl
    · split at h <;> rename_i hm
      · exact .arrive hd _ _ ha hm (by simpa using h.symm)
      · rcases poll_cases h with ⟨hl, rfl⟩ | ⟨hl, rfl⟩
        · exact absurd (.inl hl) hm
        · exact .start hd hl rfl
  · unfold dispatch at h
    split at h <;> rename_i hl
    · cases h
    · unfold dispatchMessage at h
      split at h <;> rename_i hdec
      · obtain ⟨u, hu, rfl⟩ := consumeAfter_cases h
        exact .command hd hl _ u hdec hu rfl
      · exact .unrecognized hd hl hdec (by simpa using h.symm)
      · exact .short hd hl hdec (by simpa using h.symm)

/-- The message a transport completes is the message the block reads. -/
@[simp] theorem State.message_deliver (s : State) (m : Message) : (s.deliver m).message = m := by
  obtain ⟨c, rest⟩ := m
  simp only [State.message, State.rxByte, State.deliver_rx, State.deliver_msgLen, Message.bytes, Message.length]
  congr 1
  apply List.ext_getElem?
  intro i
  by_cases hi : i < rest.length
  · simp [hi, List.getElem?_append_left hi]
  · simp [hi]

@[simp] theorem State.message_place (s : State) (m : Message) : (s.place m).message = m := s.message_deliver m

end Sys2Proof.Machine
end

