-- ==== Sys2Proof/Tests/Slice0.lean ====
section
/-! SUPPORT. Small checks. Expected values come from the tables of 95_test_vectors.md and the examples of the rules, none from the
model. Then one named witness per statement that has hypotheses. -/

namespace Sys2Proof.Tests

open Sys2Proof.Machine

/-- A state with the given port bytes, else as at reset. -/
def withPorts (p0 p1 : Byte) : State := { State.reset with ports := [⟨p0, p0⟩, ⟨p1, p1⟩] }

/-- The next state, if there is one. -/
def after : Result → Option State
  | .next s    => some s
  | .fault _   => none
  | .refused _ => none

/-- One Dispatching step on a message. -/
def send (code : Byte) (rest : List Byte) (s : State) : Option State := after (step (s.place ⟨code, rest⟩))

/-- The shadow bytes after a one-byte message. -/
def shadows (code : Byte) (p0 p1 : Byte) : Option (List Byte) :=
  (send code [] (withPorts p0 p1)).map fun t => t.ports.map PortRegs.shadow

/-- The output bytes after a one-byte message. -/
def outs (code : Byte) (p0 p1 : Byte) : Option (List Byte) :=
  (send code [] (withPorts p0 p1)).map fun t => t.ports.map PortRegs.out

/-! ### Well-formedness refuses each ill-formed term -/

theorem smoke_default : Params.default.WF := by decide
theorem smoke_no_port : ¬ Params.WF { Params.default with nports := 0 } := by decide
theorem smoke_foreign_count : ¬ Params.WF { Params.default with resetForeign := [0x00] } := by decide
theorem smoke_line_off_port :
    ¬ Params.WF { Params.default with layout := { Layout.default with aux4 := ⟨2, 3⟩ } } := by decide
theorem smoke_shared_bit :
    ¬ Params.WF { Params.default with layout := { Layout.default with aux4 := ⟨1, 0⟩ } } := by decide
theorem smoke_dir_apart :
    ¬ Params.WF { Params.default with layout := { Layout.default with dirB := ⟨1, 7⟩ } } := by decide
theorem smoke_ms_apart :
    ¬ Params.WF { Params.default with layout := { Layout.default with ms2 := ⟨1, 7⟩ } } := by decide
theorem smoke_code_twice :
    ¬ Params.WF { Params.default with cmdCode := { CmdCode.default with power := 0x19 } } := by decide
theorem smoke_speed_twice :
    ¬ Params.WF { Params.default with speedCode := { SpeedCode.default with l5 := 1 } } := by decide
theorem smoke_one_timer : ¬ Params.WF { Params.default with timerOf := ⟨.slot0, .slot0⟩ } := by decide
theorem smoke_speed_a_byte : Instr.WF SpeedCode.default (.speedA 0) = false := by decide
theorem smoke_speed_b_byte : Instr.WF SpeedCode.default (.speedB 6) = false := by decide
theorem smoke_speed_a_level : Instr.WF SpeedCode.default (.speedA 5) = true := by decide

/-! ### Decoding, one word a row, written out bit by bit from R76's default codes -/

theorem decode_aux1_on : decodeTableWord 8 0b00000001 = some .aux1On := by decide
theorem decode_aux1_off : decodeTableWord 8 0b00000010 = some .aux1Off := by decide
theorem decode_aux2_on : decodeTableWord 8 0b00000011 = some .aux2On := by decide
theorem decode_aux2_off : decodeTableWord 8 0b00000100 = some .aux2Off := by decide
theorem decode_aux3_on : decodeTableWord 8 0b00000101 = some .aux3On := by decide
theorem decode_aux3_off : decodeTableWord 8 0b00000110 = some .aux3Off := by decide
theorem decode_aux4_on : decodeTableWord 8 0b00000111 = some .aux4On := by decide
theorem decode_aux4_off : decodeTableWord 8 0b00001000 = some .aux4Off := by decide
theorem decode_reset_on : decodeTableWord 8 0b00001001 = some .resetOn := by decide
theorem decode_reset_off : decodeTableWord 8 0b00001010 = some .resetOff := by decide
theorem decode_sleep_on : decodeTableWord 8 0b00001011 = some .sleepOn := by decide
theorem decode_sleep_off : decodeTableWord 8 0b00001100 = some .sleepOff := by decide
theorem decode_motor_a_on : decodeTableWord 8 0b00001101 = some .motorAOn := by decide
theorem decode_motor_a_off : decodeTableWord 8 0b00001110 = some .motorAOff := by decide
theorem decode_motor_b_on : decodeTableWord 8 0b00001111 = some .motorBOn := by decide
theorem decode_motor_b_off : decodeTableWord 8 0b00010000 = some .motorBOff := by decide
theorem decode_motor_a_forward : decodeTableWord 8 0b00010001 = some .motorAForward := by decide
theorem decode_motor_a_backward : decodeTableWord 8 0b00010010 = some .motorABackward := by decide
theorem decode_motor_b_forward : decodeTableWord 8 0b00010011 = some .motorBForward := by decide
theorem decode_motor_b_backward : decodeTableWord 8 0b00010100 = some .motorBBackward := by decide
theorem decode_microstep_full : decodeTableWord 8 0b00010101 = some .microstepFull := by decide
theorem decode_microstep_half : decodeTableWord 8 0b00010110 = some .microstepHalf := by decide
theorem decode_microstep_quarter : decodeTableWord 8 0b00010111 = some .microstepQuarter := by decide
theorem decode_microstep_sixteenth : decodeTableWord 8 0b00011000 = some .microstepSixteenth := by decide
theorem decode_speed_a_l3 : decodeTableWord 16 0b0000001100011001 = some (.speedA 3) := by decide
theorem decode_speed_a_short_word : decodeTableWord 8 0b00011001 = some (.speedA 0) := by decide
theorem decode_speed_b_l5 : decodeTableWord 16 0b0000010100011010 = some (.speedB 5) := by decide
theorem decode_power_40 : decodeTableWord 16 0b0010100000011011 = some (.power 40) := by decide
theorem decode_unrecognized : decodeTableWord 8 0x1C = none := by decide
/-- V10: the second byte of an unrecognized message is not read. -/
theorem decode_unrecognized_long : decode CmdCode.default ⟨0xFF, [0x05]⟩ = .unrecognized := by decide
/-- V10: a POWER of one byte is short. -/
theorem decode_power_short : decode CmdCode.default ⟨0x1B, []⟩ = .shortMessage := by decide
/-- V10: an F1 command ignores a second byte. -/
theorem decode_extra_byte : decode CmdCode.default ⟨0x11, [0x99]⟩ = .cmd .motorAForward := by decide

/-! ### Port-writing commands (V2, V3, V5, V6, V7) -/

theorem test_aux1_on : shadows 0x01 0x10 0x00 = some [0x10, 0x01] := by decide
theorem test_aux1_off : shadows 0x02 0x10 0xF5 = some [0x10, 0xF4] := by decide
theorem test_aux2_on : shadows 0x03 0x10 0xF5 = some [0x10, 0xF7] := by decide
theorem test_aux2_off : shadows 0x04 0x10 0x0F = some [0x10, 0x0D] := by decide
theorem test_aux3_on : shadows 0x05 0x10 0x00 = some [0x10, 0x04] := by decide
theorem test_aux3_off : shadows 0x06 0x10 0xF5 = some [0x10, 0xF1] := by decide
theorem test_aux4_on : shadows 0x07 0x10 0xF5 = some [0x10, 0xFD] := by decide
theorem test_aux4_off : shadows 0x08 0x10 0x0F = some [0x10, 0x07] := by decide
theorem test_aux4_off_line : outs 0x08 0x10 0x0F = some [0x10, 0x07] := by decide
theorem test_reset_on : shadows 0x09 0x3F 0x05 = some [0x1F, 0x05] := by decide
theorem test_reset_off : shadows 0x0A 0x0F 0x05 = some [0x2F, 0x05] := by decide
theorem test_sleep_on : shadows 0x0B 0x2F 0x05 = some [0x3F, 0x05] := by decide
theorem test_sleep_off : shadows 0x0C 0x3F 0x05 = some [0x2F, 0x05] := by decide
theorem test_motor_a_forward : shadows 0x11 0x13 0x05 = some [0x12, 0x05] := by decide
theorem test_motor_a_backward : shadows 0x12 0xD0 0x05 = some [0xD1, 0x05] := by decide
theorem test_motor_b_forward : shadows 0x13 0x11 0x05 = some [0x13, 0x05] := by decide
theorem test_motor_b_backward : shadows 0x14 0x13 0x05 = some [0x11, 0x05] := by decide
theorem test_microstep_full : shadows 0x15 0x1F 0x05 = some [0x13, 0x05] := by decide
theorem test_microstep_half : shadows 0x16 0x1B 0x05 = some [0x17, 0x05] := by decide
theorem test_microstep_quarter : shadows 0x17 0x17 0x05 = some [0x1B, 0x05] := by decide
theorem test_microstep_sixteenth : shadows 0x18 0x3F 0x05 = some [0x3F, 0x05] := by decide
theorem test_microstep_sixteenth_line : outs 0x18 0x10 0x05 = some [0x1C, 0x05] := by decide

/-- V1: the formula for any mask and value, the last one against the caller's contract (R103). -/
theorem test_masked : maskedByte 0xFF 0x0C 0x04 = 0xF7 ∧ maskedByte 0xA5 0xFF 0x3C = 0x3C ∧
    maskedByte 0x00 0x01 0x03 = 0x03 := by decide

/-! ### Power (V4), run (V9), speed (V8) -/

theorem test_power_mask : (send 0x1B [0x28] State.reset).map State.pwr = some (some 8) := by decide
theorem test_power_top : (send 0x1B [0xE0] State.reset).map State.pwr = some (some 0) := by decide
theorem test_motor_a_on : (send 0x0D [] State.reset).map (fun t => (t.tmr0.en, t.tmr1.en)) = some (true, false) := by decide
theorem test_motor_a_off :
    (send 0x0E [] { State.reset with tmr0 := ⟨none, none, true⟩, tmr1 := ⟨none, none, true⟩ }).map
      (fun t => (t.tmr0.en, t.tmr1.en)) = some (false, true) := by decide
theorem test_motor_b_on : (send 0x0F [] State.reset).map (fun t => (t.tmr0.en, t.tmr1.en)) = some (false, true) := by decide
theorem test_motor_b_off :
    (send 0x10 [] { State.reset with tmr0 := ⟨none, none, true⟩, tmr1 := ⟨none, none, true⟩ }).map
      (fun t => (t.tmr0.en, t.tmr1.en)) = some (true, false) := by decide
theorem test_speed_a_l4 :
    (send 0x19 [0x04, 0x77] State.reset).map State.tmr0 =
      some ⟨some (Config.speedTable .l4).1, some (Config.speedTable .l4).2, false⟩ := by rfl
theorem test_speed_a_bad :
    (send 0x19 [0x00] { State.reset with tmr0 := ⟨some (Config.speedTable .l1).1, some (Config.speedTable .l1).2, true⟩ }).map
      (fun t => (t.tmr0, t.faults)) = some (⟨none, none, true⟩, ⟨false, true⟩) := by rfl
theorem test_speed_b_l5 :
    (send 0x1A [0x05] { State.reset with tmr1 := ⟨some (Config.speedTable .l4).1, some (Config.speedTable .l4).2, true⟩ }).map
      (fun t => (t.tmr0, t.tmr1)) =
      some (⟨none, none, false⟩, ⟨some (Config.speedTable .l5).1, some (Config.speedTable .l5).2, true⟩) := by rfl
theorem test_speed_b_bad : (send 0x1A [0x06] State.reset).map State.faults = some ⟨false, true⟩ := by decide
theorem test_short : (send 0x1B [] { State.reset with pwr := some 9 }).map (fun t => (t.pwr, t.faults)) =
    some (some 9, ⟨true, false⟩) := by decide

/-! ### The dispatcher (V10) and the reset state (S0) -/

theorem test_unrecognized : send 0xFF [0x12] State.reset = some { State.reset with rx := [0xFF, 0x12] } := by decide
theorem test_start_changes_nothing_else :
    after (step (State.reset.deliver ⟨0x01, []⟩)) = some (State.reset.place ⟨0x01, []⟩) := by decide
theorem test_wait : after (step State.reset) = some State.reset := by decide
theorem test_fetch_word :
    (after (step (State.reset.withFetchWord 8 0x03))).map (fun t => t.ports) = some [⟨0x10, 0x10⟩, ⟨0x02, 0x02⟩] := by decide
theorem test_fetch_word_f2 :
    (after (step (State.reset.withFetchWord 16 0x281B))).map State.pwr = some (some 8) := by decide
/-- A message replacing one that is pending and not yet taken up (R175). -/
theorem test_replace :
    (after (step { State.reset.deliver ⟨0x01, []⟩ with arrivals := [⟨⟨0x02, []⟩, true⟩] })).map State.message =
      some ⟨0x02, []⟩ := by decide
/-- A message that waits for the pending one. -/
theorem test_no_replace :
    (after (step { State.reset.deliver ⟨0x01, []⟩ with arrivals := [⟨⟨0x02, []⟩, false⟩] })).map
      (fun t => (t.message, t.dstate)) = some (⟨0x01, []⟩, .dispatching) := by decide

/-! ### Witnesses: a state that meets the hypotheses of each statement -/

theorem rxbufSize_ge : 2 ≤ Config.rxbufSize := by
  unfold Config.rxbufSize
  omega

/-- AuxCommands, DirectionCommands, MicrostepCommands, SetSleepMode, SleepCommands, ResetCommands, EveryCommandCompletes. -/
theorem witness_fits : State.reset.Fits ∧ (withPorts 0xFF 0xFF).Fits := by decide
/-- SleepCommands, its second clause: the other `SLEEP_CMD_MAP`. -/
theorem witness_sleep_map :
    (State.resetWith { Params.default with sleepOn := .motorsOn }).Fits ∧
      (State.resetWith { Params.default with sleepOn := .motorsOn }).params.sleepOn = .motorsOn := by decide
/-- DecodeEncodeAgree, FormatByCode. -/
theorem witness_codes : CmdCode.default.WF := by decide
/-- DecodedIsEncoded. -/
theorem witness_decoded : decode CmdCode.default ⟨0x1B, [0xFF, 0x00]⟩ = .cmd (.power 0xFF) := by decide
/-- SpeedByte, SpeedCommands. -/
theorem witness_speed_codes : SpeedCode.default.WF ∧ State.reset.params.speedCode.WF := by decide
/-- MaskedUpdate. -/
theorem witness_port : 1 < State.reset.ports.length := by decide
/-- UndefinedSpeed, both ends of the range. -/
theorem witness_undefined_speed :
    State.reset.params.speedCode.decodeSpeed 0 = none ∧ State.reset.params.speedCode.decodeSpeed 0xFF = none := by decide
/-- CommandFrame, CommandsIdempotent: a command that answers, and an undefined speed byte that does. -/
theorem witness_next : (after (exec .aux1On State.reset)).isSome = true ∧ (after (exec (.speedA 0) State.reset)).isSome = true := by
  decide
/-- MaskDiscipline: a bit DIR_A's command does not name, with mirrored ports. -/
theorem witness_mask : State.reset.Fits ∧ (after (exec .motorAForward State.reset)).isSome = true ∧
    (∀ g ∈ namedSignals .motorAForward, State.reset.params.layout.at g ≠ ⟨0, 1⟩) ∧
    (∀ r ∈ State.reset.ports, r.out = r.shadow) := by decide
/-- The reset state with other outputs, another slot, a power level and a fault. -/
def otherOutputs : State :=
  { State.reset with
    ports := [⟨0x10, 0xFF⟩, ⟨0x00, 0xFF⟩]
    tmr0 := ⟨none, none, true⟩
    pwr := some 3
    faults := ⟨true, false⟩ }
/-- OutputsNeverRead: two states that differ in their outputs, slots, power and faults, and a command that answers. -/
theorem witness_same_inputs :
    SameInputs State.reset otherOutputs ∧ (after (exec .aux1On State.reset)).isSome = true := ⟨⟨rfl, by decide⟩, by decide⟩
/-- ViewsFollowCommands: each of the commands it names answers. -/
theorem witness_views : State.reset.params.sleepOn = .motorsOff ∧ State.reset.params.timerOf.WF ∧
    ∀ i ∈ ([.motorAForward, .motorABackward, .motorBForward, .motorBBackward, .microstepFull, .microstepHalf, .microstepQuarter,
      .microstepSixteenth, .resetOn, .resetOff, .sleepOn, .sleepOff, .aux1On, .aux1Off, .aux2On, .aux2Off, .aux3On, .aux3Off,
      .aux4On, .aux4Off, .motorAOn, .motorAOff, .motorBOn, .motorBOff, .power 0xFF] : List Instr),
      (after (exec i State.reset)).isSome = true := by decide
/-- ViewsFollowCommands and SleepCommands under the other `SLEEP_CMD_MAP`: both commands answer. -/
theorem witness_views_other_map : ∀ i ∈ ([.sleepOn, .sleepOff] : List Instr),
    (after (exec i (State.resetWith { Params.default with sleepOn := .motorsOn }))).isSome = true := by decide
/-- PulsesAfterSpeed: at a running slot. -/
theorem witness_pulses : State.reset.params.speedCode.WF ∧
    (after (exec (speedInstr .b (State.reset.params.speedCode.of .l5))
      { State.reset with tmr1 := ⟨none, none, true⟩ })).isSome = true := by decide
/-- SpeedOrder, first and last pair. -/
theorem witness_slower : Speed.l1.slower = some .l2 ∧ Speed.l4.slower = some .l5 := by decide
/-- StepRunsDecoded, StableWhileDispatching: the next state clause. -/
theorem witness_dispatching : (State.reset.place ⟨0x01, []⟩).dstate = .dispatching ∧ (State.reset.place ⟨0x01, []⟩).msgLen ≠ 0 ∧
    decode CmdCode.default (State.reset.place ⟨0x01, []⟩).message = .cmd .aux1On ∧
    (after (exec .aux1On (State.reset.place ⟨0x01, []⟩))).isSome = true ∧
    (after (step (State.reset.place ⟨0x01, []⟩))).isSome = true := by decide
/-- StepRunsDecoded, the fault clause, and WhereItStops: an illegal layout. -/
theorem witness_no_port : exec .aux1On { State.reset with ports := [⟨0x10, 0x10⟩] } = .fault (.noSuchPort 1) := rfl
/-- WhereItStops: Dispatching with nothing pending. -/
theorem witness_no_message : step { State.reset with dstate := .dispatching } = .fault .noMessage := rfl
/-- MessageAsSent: a byte of a message. -/
theorem witness_byte : 1 < Message.length ⟨0x1B, [0x28]⟩ := by decide
/-- IdleSteps: something pending and nothing that replaces it; and nothing at all. -/
theorem witness_idle : (State.reset.deliver ⟨0x01, []⟩).dstate = .idle ∧ (State.reset.deliver ⟨0x01, []⟩).msgLen ≠ 0 ∧
    (State.reset.deliver ⟨0x01, []⟩).arrivals = [] ∧ State.reset.msgLen = 0 ∧ State.reset.arrivals = [] := by decide
/-- UnrecognizedIgnored: codes at the edges of the default range. -/
theorem witness_unrecognized : (State.reset.place ⟨0x00, []⟩).rxByte 0 = 0x00 ∧ (State.reset.place ⟨0x1C, [5]⟩).rxByte 0 = 0x1C ∧
    ∀ i : Instr, CmdCode.default.of i ≠ 0x00 ∧ CmdCode.default.of i ≠ 0x1C := by
  refine ⟨by decide, by decide, fun i => ?_⟩
  cases i <;> exact ⟨by simp [CmdCode.of, CmdCode.default], by simp [CmdCode.of, CmdCode.default]⟩
/-- ShortMessageRecorded, for each of its three codes. -/
theorem witness_short : ∀ c ∈ [CmdCode.default.speedA, CmdCode.default.speedB, CmdCode.default.power],
    (State.reset.place ⟨c, []⟩).dstate = .dispatching ∧ (State.reset.place ⟨c, []⟩).msgLen = 1 ∧
    (State.reset.place ⟨c, []⟩).rxByte 0 = c := by decide
/-- MessageExecutedOnce. -/
theorem witness_message : (after (exec .aux1On (State.reset.place ⟨0x01, []⟩))).isSome = true ∧
    (State.reset.params.cmdCode.of .aux1On = 0x01) ∧ State.reset.dstate = .idle ∧ State.reset.msgLen = 0 := by decide
/-- OnlyDispatchWrites, ParametersFixed, FaultsSticky: a step from Idle, and one that holds a fault already. -/
theorem witness_step : State.reset.dstate = .idle ∧ (after (step State.reset)).isSome = true ∧
    (after (step { State.reset with faults := ⟨true, true⟩ })).isSome = true ∧
    FaultSet.has ⟨true, true⟩ .badSpeedArg = true := by decide
/-- OnlyTwoFaults: a step that adds each kind. -/
theorem witness_faults : (send 0x19 [] State.reset).map State.faults = some ⟨true, false⟩ ∧
    (send 0x19 [6] State.reset).map State.faults = some ⟨false, true⟩ ∧ State.reset.faults = ⟨false, false⟩ := by decide
/-- InvariantKept, EveryStepCompletes: a state of the invariant that is Dispatching and steps. -/
theorem witness_inv : (State.reset.place ⟨0x01, []⟩).Inv ∧ (State.reset.place ⟨0x01, []⟩).dstate = .dispatching ∧
    (after (step (State.reset.place ⟨0x01, []⟩))).isSome = true := by
  refine ⟨⟨by decide, by decide, ?_, ?_, .inl ⟨rfl, rfl⟩, .inl ⟨rfl, rfl⟩, by decide, ?_, by decide, ?_⟩, rfl, by decide⟩
  · exact (by decide : ∀ r ∈ (State.reset.place ⟨0x01, []⟩).ports, r.out = r.shadow)
  · exact (by decide : ∀ p, p < 2 → ∀ b : Fin 8, Layout.default.Foreign p b →
      (State.reset.place ⟨0x01, []⟩).shadowBit p b = Byte.bit (Params.default.resetForeign.getD p 0#8) b)
  · exact Nat.le_trans (by decide) rxbufSize_ge
  · intro a ha
    cases ha
/-- InvariantAtReset, ResetValues: the default instance, and one with other foreign bits, timers and reset policy. -/
theorem witness_params : Params.default.WF ∧
    Params.WF { Params.default with resetForeign := [0xC0, 0xF0], timerOf := ⟨.slot1, .slot0⟩, resetSleep := false } := by decide
/-- ArrivalKeepsInvariant: the shortest message fits any buffer. -/
theorem witness_arrival : State.reset.dstate = .idle ∧ Message.length ⟨0x01, []⟩ ≤ Config.rxbufSize :=
  ⟨rfl, Nat.le_trans (by decide) rxbufSize_ge⟩
/-- ForeignBitsKept, MirrorKept: a bit no signal owns, at a machine that steps. -/
theorem witness_foreign : State.reset.Fits ∧ Layout.default.Foreign 1 7 ∧ (∀ r ∈ State.reset.ports, r.out = r.shadow) ∧
    (after (step (State.reset.place ⟨0x07, []⟩))).isSome = true := by decide
/-- PowerWrittenByPower: a step that writes it, and one from a state in which it has a value. -/
theorem witness_power : (send 0x1B [0x03] State.reset).map State.pwr = some (some 3) ∧ State.reset.pwr = none ∧
    (send 0x01 [] { State.reset with pwr := some 3 }).map State.pwr = some (some 3) := by decide
/-- NoInterlocks: the machine in which MOTOR_A_ON makes motor A driven (its other clauses: witness_views). -/
def readyA : State := { withPorts 0x20 0x00 with tmr0 := ⟨some (Config.speedTable .l1).1, some (Config.speedTable .l1).2, false⟩ }
theorem witness_drives : readyA.Fits ∧ (readyA.place ⟨0x0D, []⟩).drives .a = false ∧
    (send 0x0D [] readyA).map (fun t => t.drives .a) = some true := by decide
/-- EndStays. -/
theorem witness_end : State.reset.AtEnd := ⟨rfl, rfl, rfl⟩

end Sys2Proof.Tests
end

/-! # The mode encoders (R120 to R137)

Each encoder is one masked update of the signals its rule names, so on a legal layout it completes and writes those alone. That is
said once for a one-signal write and once for the selector pair; the commands are the encoders at fixed arguments. -/

namespace Sys2Proof

/-- The mask of R125 keeps the low five bits, so the level is the byte modulo 32. -/
@[simp] theorem toNat_powerLevel (p : Byte) : (powerLevel p).toNat = p.toNat % 32 := by
  simp [powerLevel]

/-- The level, as a byte again, is the masked byte of R125. -/
theorem setWidth_powerLevel (p : Byte) : (powerLevel p).setWidth 8 = p &&& 0x1F#8 := by
  apply BitVec.eq_of_toNat_eq
  have hmask : p.toNat &&& 31 = p.toNat % 32 := Nat.and_two_pow_sub_one_eq_mod p.toNat 5
  simp [hmask]
  omega

namespace Machine

theorem State.Fits.setSignal_completes {s : State} (h : s.Fits) (g : Signal) (x : Bool) :
    ∃ t, s.setSignal g x = .next t ∧ Wrote s t [(g, x)] := by
  obtain ⟨t, ht⟩ := State.setSignal_next h g x
  exact ⟨t, ht, State.setSignal_wrote ht⟩

theorem State.Fits.setPair_completes {s : State} (h : s.Fits) (x y : Bool) :
    ∃ t, s.setPair .ms1 .ms2 x y = .next t ∧ Wrote s t [(.ms1, x), (.ms2, y)] := by
  obtain ⟨t, ht⟩ := State.setPair_next h .ms1 .ms2 x y
  exact ⟨t, ht, State.setPair_wrote h ht⟩

theorem State.Fits.setDirection_completes {s : State} (h : s.Fits) (m : Motor) (d : Direction) :
    ∃ t, setDirection m d s = .next t ∧ Wrote s t [(m.dirSignal, directionBit m d)] :=
  h.setSignal_completes m.dirSignal (directionBit m d)

theorem State.Fits.setMicrostepping_completes {s : State} (h : s.Fits) (r : Microstep) :
    ∃ t, setMicrostepping r s = .next t ∧ Wrote s t [(.ms1, r.line1), (.ms2, r.line2)] :=
  h.setPair_completes r.line1 r.line2

theorem State.Fits.setSleep_completes {s : State} (h : s.Fits) (mode : SleepMode) :
    ∃ t, setSleep mode s = .next t ∧ Wrote s t [(.sleep, mode.bit)] :=
  h.setSignal_completes .sleep mode.bit

theorem State.Fits.setReset_completes {s : State} (h : s.Fits) (r : ResetState) :
    ∃ t, setReset r s = .next t ∧ Wrote s t [(.rstRel, r.bit)] :=
  h.setSignal_completes .rstRel r.bit

/-- Settles O9: each command is `set_direction` at its motor and direction, and Motor B's inverted polarity is `directionBit`. -/
theorem directionCommands : Obligations.DirectionCommands := by
  intro s hf
  simp only [List.forall_mem_cons]
  exact ⟨hf.setDirection_completes .a .forward, hf.setDirection_completes .a .backward,
    hf.setDirection_completes .b .forward, hf.setDirection_completes .b .backward, List.forall_mem_nil _⟩

/-- Settles O10: each command is `set_microstepping` at its resolution, one write of the selector pair. -/
theorem microstepCommands : Obligations.MicrostepCommands := by
  intro s hf
  simp only [List.forall_mem_cons]
  exact ⟨hf.setMicrostepping_completes .full, hf.setMicrostepping_completes .half,
    hf.setMicrostepping_completes .quarter, hf.setMicrostepping_completes .sixteenth, List.forall_mem_nil _⟩

/-- Settles O11, by the write of the SLEEP signal at each mode's bit. -/
theorem setSleepMode : Obligations.SetSleepMode := by
  intro s hf
  simp only [List.forall_mem_cons]
  exact ⟨hf.setSleep_completes .motorsOff, hf.setSleep_completes .motorsOn, List.forall_mem_nil _⟩

/-- Settles O13, by the write of the RST_REL signal at each state's bit. -/
theorem resetCommands : Obligations.ResetCommands := by
  intro s hf
  simp only [List.forall_mem_cons]
  exact ⟨hf.setReset_completes .on, hf.setReset_completes .off, List.forall_mem_nil _⟩

/-- Settles O14: the next state is the power register write of `powerLevel p`, whose value the two lemmas about it give. -/
theorem powerCommand : Obligations.PowerCommand := by
  intro s p
  exact ⟨s.setPwr (powerLevel p), powerLevel p, rfl, rfl, setWidth_powerLevel p, toNat_powerLevel p, rfl⟩

end Machine

end Sys2Proof

/-! # The timer configuration mux (R150 to R160)

A speed command with a level's byte is `setSpeed`, one write of its motor's slot. That a faster level is never
slower in rate is part of what a frequency law is. -/

namespace Sys2Proof

/-- R160 is a field of every frequency law, so it holds of the hardware's, whichever that is. -/
theorem Config.stepRate_le_of_slower {k j : Speed} (h : k.slower = some j) :
    stepRate (speedTable j) ≤ stepRate (speedTable k) :=
  (rateLaw.getD RateLaw.level).ordered k j h

/-- Settles O25: the order `RateLaw.ordered` gives, read from the faster level. -/
theorem speedOrder : Obligations.SpeedOrder := by
  intro k j h
  exact Config.stepRate_le_of_slower h

namespace Machine

/-- Each motor's speed command is the one `set_speed` at that motor (R152, R153). -/
@[simp] theorem exec_speedInstr (m : Motor) (p : Byte) (s : State) : exec (speedInstr m p) s = speedCommand m p s := by
  cases m <;> rfl

/-- A speed command whose byte is a level's completes, and sets that level (R76). -/
theorem speedCommand_of_decode {s : State} {p : Byte} {k : Speed} (h : s.params.speedCode.decodeSpeed p = some k) (m : Motor) :
    speedCommand m p s = .next (setSpeed m k s) := by
  simp [speedCommand, h]

@[simp] theorem State.motorTmr_setMotorTmr_same (s : State) (m : Motor) (c : TimerSlot) :
    (s.setMotorTmr m c).motorTmr m = c := by
  simp [State.setMotorTmr, State.motorTmr]

/-- A write of a motor's slot leaves the other slot (R161). -/
theorem State.tmr_setMotorTmr_of_ne {s : State} {m : Motor} {u : Slot} (h : u ≠ s.params.timerOf.of m) (c : TimerSlot) :
    (s.setMotorTmr m c).tmr u = s.tmr u := by
  simp [State.setMotorTmr, h]

/-- Settles O15: the level's byte decodes to the level, so the command is `setSpeed`, one write of the motor's slot. -/
theorem speedCommands : Obligations.SpeedCommands := by
  intro s hC k m
  have hexec : exec (speedInstr m (s.params.speedCode.of k)) s = .next (setSpeed m k s) := by
    rw [exec_speedInstr, speedCommand_of_decode (SpeedCode.decodeSpeed_of hC k)]
  exact ⟨setSpeed m k s, hexec, State.motorTmr_setMotorTmr_same .., fun _ hu => State.tmr_setMotorTmr_of_ne hu _,
    State.setTmr_rest ..⟩

end Machine

end Sys2Proof

/-! # The dispatcher (R170 to R173)

Every row of the opcode map is keyed by the code of the command it selects, so a byte that is no command's code selects no row, and
the dispatch of such a message is its consumption. -/

namespace Sys2Proof

/-- The command a row of the opcode map selects, given the byte that follows its code (R71, R72). -/
def Form.instr : Form → Byte → Instr
  | .f1 i, _ => i
  | .f2 withParam, p => withParam p

/-- Each row of the opcode map is keyed by its command's code, whatever the parameter byte (R76). -/
theorem CmdCode.of_instr_of_mem_table (K : CmdCode) (p : Byte) : ∀ row ∈ K.table, K.of (row.2.instr p) = row.1 := by
  simp [CmdCode.table, Form.instr, CmdCode.of]

/-- A byte that is no command's code selects no row, distinct codes or not (R78). -/
theorem CmdCode.find_eq_none {K : CmdCode} {c : Byte} (h : ∀ i, K.of i ≠ c) : K.find c = none := by
  cases hfind : K.find c with
  | none => rfl
  | some f => exact absurd (K.of_instr_of_mem_table 0 _ (CmdCode.mem_of_find hfind)) (h _)

theorem decode_of_find_none {K : CmdCode} {m : Message} (h : K.find m.code = none) : decode K m = .unrecognized := by
  simp [decode, h]

namespace Machine

/-- While Dispatching with a message pending, a step is the dispatch of that message (R171). -/
theorem step_of_dispatching {s : State} (hbusy : s.dstate = .dispatching) (hlen : s.msgLen ≠ 0) :
    step s = dispatchMessage s.message s := by
  simp [step, transition, dispatch, hbusy, hlen]

theorem dispatchMessage_of_unrecognized {s : State} {m : Message} (h : decode s.params.cmdCode m = .unrecognized) :
    dispatchMessage m s = .next s.consume := by
  simp [dispatchMessage, h]

/-- Settles O29: the code selects no row, so the message decodes as unrecognized and its dispatch only consumes it. -/
theorem unrecognizedIgnored : Obligations.UnrecognizedIgnored := by
  intro s hbusy hlen hcode
  have hdec : decode s.params.cmdCode s.message = .unrecognized := decode_of_find_none (CmdCode.find_eq_none hcode)
  rw [step_of_dispatching hbusy hlen, dispatchMessage_of_unrecognized hdec]
  rfl

end Machine

end Sys2Proof

/-! # Encoding (R70 to R80)

A command stands in the opcode map under its own code and in its own format, so with distinct codes its encoding is found there.
The other way round, what a message decodes to is read off the row its code selects, and every row is one of a command. -/

namespace Sys2Proof

/-- Every command stands in the opcode map under its own code (R76). -/
theorem CmdCode.mem_table (K : CmdCode) (i : Instr) : (K.of i, i.form) ∈ K.table := by
  cases i <;> simp [CmdCode.table, CmdCode.of, Instr.form]

/-- The two formats of R71: no parameter, or the one parameter byte the row waits for. -/
theorem Instr.form_cases (i : Instr) :
    (i.form = .f1 i ∧ i.params = []) ∨ ∃ withParam p, i.form = .f2 withParam ∧ i.params = [p] ∧ withParam p = i := by
  cases i
  case speedA p => exact .inr ⟨_, p, rfl, rfl, rfl⟩
  case speedB p => exact .inr ⟨_, p, rfl, rfl, rfl⟩
  case power p => exact .inr ⟨_, p, rfl, rfl, rfl⟩
  all_goals exact .inl ⟨rfl, rfl⟩

theorem decode_of_find_f1 {K : CmdCode} {c : Byte} {i : Instr} (h : K.find c = some (.f1 i)) (rest : List Byte) :
    decode K ⟨c, rest⟩ = .cmd i := by
  simp [decode, h]

theorem decode_of_find_f2 {K : CmdCode} {c : Byte} {withParam : Byte → Instr} (h : K.find c = some (.f2 withParam))
    (p : Byte) (more : List Byte) : decode K ⟨c, p :: more⟩ = .cmd (withParam p) := by
  simp [decode, h]

theorem decode_of_find_f2_nil {K : CmdCode} {c : Byte} {withParam : Byte → Instr} (h : K.find c = some (.f2 withParam)) :
    decode K ⟨c, []⟩ = .shortMessage := by
  simp [decode, h]

/-- A command's code and parameter bytes decode to it, whatever bytes come after them (R72). -/
theorem decode_params_append {K : CmdCode} (hK : K.WF) (i : Instr) (extra : List Byte) :
    decode K ⟨K.of i, i.params ++ extra⟩ = .cmd i := by
  have hfind := CmdCode.find_of hK (K.mem_table i)
  rcases i.form_cases with ⟨hform, -⟩ | ⟨withParam, p, hform, hparams, hi⟩ <;> rw [hform] at hfind
  · exact decode_of_find_f1 hfind _
  · rw [hparams, List.singleton_append, decode_of_find_f2 hfind, hi]

/-- Settles O1: the encoding is the case with nothing after the parameter bytes. -/
theorem decodeEncodeAgree : Obligations.DecodeEncodeAgree := by
  intro K hK i extra
  have hplain := decode_params_append hK i []
  rw [List.append_nil] at hplain
  exact ⟨hplain, decode_params_append hK i extra⟩

/-- All a message that decodes to a command can be: an F1 code, or an F2 code with a parameter byte (R71, R80). -/
theorem find_of_decode_cmd {K : CmdCode} {m : Message} {i : Instr} (h : decode K m = .cmd i) :
    K.find m.code = some (.f1 i) ∨
      ∃ withParam p more, K.find m.code = some (.f2 withParam) ∧ m.rest = p :: more ∧ withParam p = i := by
  unfold decode at h
  split at h
  · cases h
  · next hfind => exact .inl (by simpa [← Decoded.cmd.inj h] using hfind)
  · cases h
  · next withParam p more hfind hrest => exact .inr ⟨withParam, p, more, hfind, hrest, Decoded.cmd.inj h⟩

/-- The bytes a row of the opcode map reads after its code: none for F1, one for F2 (R71). -/
def Form.params : Form → Byte → List Byte
  | .f1 _, _ => []
  | .f2 _, p => [p]

/-- Each row's command has the parameter bytes the row reads. -/
theorem CmdCode.params_of_mem_table (K : CmdCode) (p : Byte) : ∀ row ∈ K.table, (row.2.instr p).params = row.2.params p := by
  simp [CmdCode.table, Form.instr, Form.params, Instr.params]

theorem CmdCode.params_of_find_f1 {K : CmdCode} {c : Byte} {i : Instr} (h : K.find c = some (.f1 i)) : i.params = [] :=
  K.params_of_mem_table 0 _ (mem_of_find h)

theorem CmdCode.params_of_find_f2 {K : CmdCode} {c : Byte} {withParam : Byte → Instr} (h : K.find c = some (.f2 withParam))
    (p : Byte) : (withParam p).params = [p] :=
  K.params_of_mem_table p _ (mem_of_find h)

/-- Settles O2: the row the message's code selects is keyed by the decoded command's code and has its format. -/
theorem decodedIsEncoded : Obligations.DecodedIsEncoded := by
  intro K m i hdec
  rcases find_of_decode_cmd hdec with hfind | ⟨withParam, p, more, hfind, hrest, rfl⟩
  · have hcode : K.of i = m.code := K.of_instr_of_mem_table 0 _ (CmdCode.mem_of_find hfind)
    exact ⟨hcode.symm, m.rest, by simp [encode, CmdCode.params_of_find_f1 hfind]⟩
  · have hcode : K.of (withParam p) = m.code := K.of_instr_of_mem_table p _ (CmdCode.mem_of_find hfind)
    exact ⟨hcode.symm, more, by simp [encode, CmdCode.params_of_find_f2 hfind, hrest]⟩

/-- SPEED_A, SPEED_B and POWER have F2 rows (R71). -/
theorem CmdCode.find_f2_of {K : CmdCode} (hK : K.WF) {c : Byte} (hc : c = K.speedA ∨ c = K.speedB ∨ c = K.power) :
    ∃ withParam, K.find c = some (.f2 withParam) := by
  rcases hc with rfl | rfl | rfl
  · exact ⟨_, find_of hK (K.mem_table (.speedA 0))⟩
  · exact ⟨_, find_of hK (K.mem_table (.speedB 0))⟩
  · exact ⟨_, find_of hK (K.mem_table (.power 0))⟩

/-- Only SPEED_A, SPEED_B and POWER have F2 rows (R71). -/
theorem CmdCode.code_of_find_f2 {K : CmdCode} {c : Byte} {withParam : Byte → Instr} (h : K.find c = some (.f2 withParam)) :
    c = K.speedA ∨ c = K.speedB ∨ c = K.power := by
  have hmem := mem_of_find h
  simp only [CmdCode.table, List.mem_append, List.mem_cons, Prod.mk.injEq, reduceCtorEq, and_false, false_or, or_false,
    List.not_mem_nil] at hmem
  tauto

/-- Settles O3: the code selects an F2 row, an F1 row or none, and each kind of row says what is read. -/
theorem formatByCode : Obligations.FormatByCode := by
  intro K hK c
  constructor
  · intro hc
    obtain ⟨withParam, hfind⟩ := CmdCode.find_f2_of hK hc
    refine ⟨decode_of_find_f2_nil hfind, fun p more => ⟨?_, withParam p, ?_, CmdCode.params_of_find_f2 hfind p⟩⟩
    · rw [decode_of_find_f2 hfind, decode_of_find_f2 hfind]
    · exact decode_of_find_f2 hfind p []
  · intro hc
    cases hfind : K.find c with
    | none => simp [decode_of_find_none (m := ⟨c, _⟩) hfind]
    | some f =>
      cases f with
      | f1 i => simp [decode_of_find_f1 hfind, CmdCode.params_of_find_f1 hfind]
      | f2 withParam => exact absurd (CmdCode.code_of_find_f2 hfind) hc

theorem SpeedCode.decodeSpeed_eq_some_iff {C : SpeedCode} (hC : C.WF) {b : Byte} {k : Speed} :
    C.decodeSpeed b = some k ↔ C.of k = b := by
  constructor
  · exact of_decodeSpeed
  · rintro rfl
    exact decodeSpeed_of hC k

/-- Settles O4. The default range is the five-way search with the bytes 1 to 5. -/
theorem speedByte : Obligations.SpeedByte := by
  constructor
  · intro C hC b k
    exact SpeedCode.decodeSpeed_eq_some_iff hC
  · intro b
    have hnone : SpeedCode.default.decodeSpeed b = none ↔ ∀ k ∈ Speed.all, SpeedCode.default.of k ≠ b := by
      simp [SpeedCode.decodeSpeed]
    rw [hnone]
    simp [Speed.all, SpeedCode.of, SpeedCode.default, ← BitVec.toNat_inj]
    omega

/-- A byte is no command's code exactly if it is none of the 27 (R78). -/
theorem CmdCode.forall_of_ne_iff (K : CmdCode) (c : Byte) : (∀ i, K.of i ≠ c) ↔ c ∉ K.codes := by
  rw [← K.table_codes, List.mem_map]
  constructor
  · rintro h ⟨row, hrow, rfl⟩
    exact h _ (K.of_instr_of_mem_table 0 row hrow)
  · rintro h i rfl
    exact h ⟨_, K.mem_table i, rfl⟩

theorem CmdCode.not_mem_default_codes (c : Byte) : c ∉ CmdCode.default.codes ↔ c = 0 ∨ 0x1C ≤ c.toNat := by
  simp [CmdCode.codes, CmdCode.default, ← BitVec.toNat_inj]
  omega

/-- Settles O5: the 27 default codes are 1 to 0x1B, and a code outside them selects no row. -/
theorem defaultUnrecognized : Obligations.DefaultUnrecognized := by
  intro c
  have hiff : (∀ i, CmdCode.default.of i ≠ c) ↔ c = 0 ∨ 0x1C ≤ c.toNat :=
    (CmdCode.default.forall_of_ne_iff c).trans (CmdCode.not_mem_default_codes c)
  exact ⟨hiff, fun hc _ => decode_of_find_none (CmdCode.find_eq_none (hiff.2 hc))⟩

/-- Settles O6: nine words of the default table, each decoded. -/
theorem defaultWords : Obligations.DefaultWords := by
  unfold Obligations.DefaultWords
  decide

end Sys2Proof

/-! # The masked update and what a command is made of (R100 to R103, R171)

`Shape` says what each command is under given parameters, and not only on a legal layout: one masked update, one write of
a motor's timer slot, an undefined speed byte, or the power register. Frames, idempotence and the independence of all but the shadow
bytes follow from it without opening a command. -/

namespace Sys2Proof.Machine

/-- Settles O7, by the laws of the masked update at the port and beside it. -/
theorem maskedUpdate : Obligations.MaskedUpdate := by
  intro s p m v hp
  have hset := State.setMasked_eq s (List.getElem?_eq_getElem hp) m v
  refine ⟨_, hset, fun b => ?_, fun b => ?_, fun q b hq => ⟨?_, ?_⟩, by simp, rfl⟩
  · simp [State.setMasked_shadowBit hset]
  · simp [State.setMasked_outBit hset]
  · simp [State.setMasked_shadowBit hset, hq]
  · simp [State.setMasked_outBit hset, hq]

/-- A masked update stops only at a port the machine lacks (log 4). -/
theorem State.setMasked_fault {s : State} {p : Nat} {m v : Byte} {r : Fault} (h : s.setMasked p m v = .fault r) :
    s.ports.length ≤ p ∧ r = .noSuchPort p := by
  unfold State.setMasked at h
  split at h
  · next hp => exact ⟨List.getElem?_eq_none_iff.1 hp, by simpa using h.symm⟩
  · cases h

theorem State.setMasked_ne_refused (s : State) (p : Nat) (m v : Byte) (r : Refusal) : s.setMasked p m v ≠ .refused r := by
  unfold State.setMasked
  split <;> simp

/-- Masking and writing the same bits again changes nothing (R55). -/
@[simp] theorem maskedByte_maskedByte (old m v : Byte) : maskedByte (maskedByte old m v) m v = maskedByte old m v := by
  apply Byte.ext_bit
  intro b
  simp only [Byte.bit_maskedByte]
  cases old.bit b <;> cases m.bit b <;> cases v.bit b <;> rfl

theorem State.setMasked_idempotent {s t : State} {p : Nat} {m v : Byte} (h : s.setMasked p m v = .next t) :
    t.setMasked p m v = .next t := by
  obtain ⟨r, hr, rfl⟩ := State.setMasked_cases h
  obtain ⟨hp, -⟩ := List.getElem?_eq_some_iff.1 hr
  rw [State.setMasked_eq (r := ⟨maskedByte r.shadow m v, maskedByte r.shadow m v⟩) _ (by simp [hp])]
  simp

/-- What a command writes to a slot: for each field a value, or nothing where the field is left alone. -/
structure SlotWrite where
  presc  : Option (Option Config.Presc)
  period : Option (Option Config.Period)
  en     : Option Bool

/-- The slot after the write. -/
def TimerSlot.update (c : TimerSlot) (w : SlotWrite) : TimerSlot :=
  ⟨w.presc.getD c.presc, w.period.getD c.period, w.en.getD c.en⟩

@[simp] theorem TimerSlot.update_update (c : TimerSlot) (w : SlotWrite) : (c.update w).update w = c.update w := by
  obtain ⟨presc, period, en⟩ := w
  cases presc <;> cases period <;> cases en <;> rfl

/-- The write of `set_speed` (R150). -/
def SlotWrite.speed (k : Speed) : SlotWrite := ⟨some (some (Config.speedTable k).1), some (some (Config.speedTable k).2), none⟩

/-- The write of an undefined speed byte (R202). -/
def SlotWrite.unknown : SlotWrite := ⟨some none, some none, none⟩

/-- The write of `run` (R154). -/
def SlotWrite.run (mode : RunMode) : SlotWrite := ⟨none, none, some mode.bit⟩

/-- A motor's slot with a write done to it. -/
def State.updateMotor (s : State) (m : Motor) (w : SlotWrite) : State := s.setMotorTmr m ((s.motorTmr m).update w)

theorem setSpeed_eq (m : Motor) (k : Speed) (s : State) : setSpeed m k s = s.updateMotor m (.speed k) := rfl

theorem badSpeed_eq (m : Motor) (s : State) : badSpeed m s = (s.updateMotor m .unknown).raise .badSpeedArg := rfl

theorem run_eq (m : Motor) (mode : RunMode) (s : State) : run m mode s = .next (s.updateMotor m (.run mode)) := rfl

theorem speedCommand_of_undefined {s : State} {p : Byte} (h : s.params.speedCode.decodeSpeed p = none) (m : Motor) :
    speedCommand m p s = .next (badSpeed m s) := by
  simp [speedCommand, h]

@[simp] theorem State.updateMotor_params (s : State) (m : Motor) (w : SlotWrite) : (s.updateMotor m w).params = s.params := by
  simp [State.updateMotor, State.setMotorTmr]
@[simp] theorem State.updateMotor_ports (s : State) (m : Motor) (w : SlotWrite) : (s.updateMotor m w).ports = s.ports := by
  simp [State.updateMotor, State.setMotorTmr]
@[simp] theorem State.updateMotor_pwr (s : State) (m : Motor) (w : SlotWrite) : (s.updateMotor m w).pwr = s.pwr := by
  simp [State.updateMotor, State.setMotorTmr]
@[simp] theorem State.updateMotor_dstate (s : State) (m : Motor) (w : SlotWrite) : (s.updateMotor m w).dstate = s.dstate := by
  simp [State.updateMotor, State.setMotorTmr]
@[simp] theorem State.updateMotor_faults (s : State) (m : Motor) (w : SlotWrite) : (s.updateMotor m w).faults = s.faults := by
  simp [State.updateMotor, State.setMotorTmr]
@[simp] theorem State.updateMotor_rx (s : State) (m : Motor) (w : SlotWrite) : (s.updateMotor m w).rx = s.rx := by
  simp [State.updateMotor, State.setMotorTmr]
@[simp] theorem State.updateMotor_msgLen (s : State) (m : Motor) (w : SlotWrite) : (s.updateMotor m w).msgLen = s.msgLen := by
  simp [State.updateMotor, State.setMotorTmr]
@[simp] theorem State.updateMotor_arrivals (s : State) (m : Motor) (w : SlotWrite) : (s.updateMotor m w).arrivals = s.arrivals := by
  simp [State.updateMotor, State.setMotorTmr]
@[simp] theorem State.updateMotor_outBit (s : State) (m : Motor) (w : SlotWrite) (p : Nat) (b : Fin 8) :
    (s.updateMotor m w).outBit p b = s.outBit p b := by
  simp [State.updateMotor, State.setMotorTmr]
@[simp] theorem State.updateMotor_tmr (s : State) (m : Motor) (w : SlotWrite) (u : Slot) :
    (s.updateMotor m w).tmr u = if u = s.params.timerOf.of m then (s.tmr u).update w else s.tmr u := by
  by_cases hu : u = s.params.timerOf.of m <;> simp [State.updateMotor, State.setMotorTmr, State.motorTmr, hu]

theorem State.updateMotor_motorTmr (s : State) (m : Motor) (w : SlotWrite) :
    (s.updateMotor m w).motorTmr m = (s.motorTmr m).update w := State.motorTmr_setMotorTmr_same ..

theorem State.updateMotor_tmr_of_ne (s : State) (m : Motor) (w : SlotWrite) (u : Slot) (h : u ≠ s.params.timerOf.of m) :
    (s.updateMotor m w).tmr u = s.tmr u := State.tmr_setMotorTmr_of_ne h _

/-- Only the slots can differ after a write of a motor's slot. -/
theorem State.updateMotor_rest (s : State) (m : Motor) (w : SlotWrite) :
    s.updateMotor m w = { s with tmr0 := (s.updateMotor m w).tmr0, tmr1 := (s.updateMotor m w).tmr1 } := State.setTmr_rest ..

@[simp] theorem State.updateMotor_updateMotor (s : State) (m : Motor) (w : SlotWrite) :
    (s.updateMotor m w).updateMotor m w = s.updateMotor m w := by
  simp [State.updateMotor, State.setMotorTmr, State.motorTmr]

@[simp] theorem FaultSet.add_add (f : FaultSet) (k : FaultKind) : (f.add k).add k = f.add k := by
  cases k <;> rfl

@[simp] theorem badSpeed_badSpeed (m : Motor) (s : State) : badSpeed m (badSpeed m s) = badSpeed m s := by
  have hslot : ((s.updateMotor m .unknown).raise .badSpeedArg).updateMotor m .unknown =
      ((s.updateMotor m .unknown).updateMotor m .unknown).raise .badSpeedArg := by
    simp only [State.updateMotor, State.setMotorTmr, State.setTmr, State.raise_params]
    split <;> rfl
  have hraise : ∀ u : State, (u.raise .badSpeedArg).raise .badSpeedArg = u.raise .badSpeedArg := fun u => by
    simp [State.raise]
  rw [badSpeed_eq, badSpeed_eq, hslot, State.updateMotor_updateMotor, hraise]

@[simp] theorem namedSignals_speedInstr (m : Motor) (p : Byte) : namedSignals (speedInstr m p) = [] := by
  cases m <;> rfl

@[simp] theorem addressedMotor_speedInstr (m : Motor) (p : Byte) : addressedMotor (speedInstr m p) = some m := by
  cases m <;> rfl

@[simp] theorem wf_speedInstr (C : SpeedCode) (m : Motor) (p : Byte) :
    (speedInstr m p).WF C = (C.decodeSpeed p).isSome := by
  cases m <;> rfl

/-- What a command is in every state with parameters `P` (R171). -/
inductive Shape (P : Params) (i : Instr) : Prop where
  /-- one masked update, at the port of a signal it names -/
  | masked (g : Signal) (m v : Byte) (named : g ∈ namedSignals i) (unaddressed : addressedMotor i = none)
      (eq : ∀ s : State, s.params = P → exec i s = s.setMasked (P.layout.at g).port m v)
  /-- one write of its motor's slot -/
  | slot (m : Motor) (w : SlotWrite) (addressed : addressedMotor i = some m) (unnamed : namedSignals i = [])
      (eq : ∀ s : State, s.params = P → exec i s = .next (s.updateMotor m w))
  /-- a speed byte that is no level's code (R202) -/
  | undefinedSpeed (m : Motor) (p : Byte) (instr : i = speedInstr m p) (bad : P.speedCode.decodeSpeed p = none)
      (eq : ∀ s : State, s.params = P → exec i s = .next (badSpeed m s))
  /-- the power register -/
  | power (p : Byte) (instr : i = .power p) (eq : ∀ s : State, s.params = P → exec i s = .next (s.setPwr (powerLevel p)))

theorem speedInstr_shape (P : Params) (m : Motor) (p : Byte) : Shape P (speedInstr m p) := by
  cases hdec : P.speedCode.decodeSpeed p with
  | some k =>
    refine .slot m (.speed k) (addressedMotor_speedInstr m p) (namedSignals_speedInstr m p) fun s hs => ?_
    rw [exec_speedInstr, speedCommand_of_decode (hs ▸ hdec), setSpeed_eq]
  | none =>
    refine .undefinedSpeed m p rfl hdec fun s hs => ?_
    rw [exec_speedInstr, speedCommand_of_undefined (hs ▸ hdec)]

/-- A one-signal write is one masked update at its signal's port. -/
theorem setSignal_shape {P : Params} {i : Instr} {g : Signal} (x : Bool) (named : namedSignals i = [g])
    (unaddressed : addressedMotor i = none) (eq : ∀ s : State, s.params = P → exec i s = s.setSignal g x) : Shape P i :=
  .masked g _ _ (by simp [named]) unaddressed fun s hs => by rw [eq s hs, State.setSignal, hs]

/-- A write of two signals is one masked update at the first one's port. -/
theorem setPair_shape {P : Params} {i : Instr} {g k : Signal} (x y : Bool) (named : namedSignals i = [g, k])
    (unaddressed : addressedMotor i = none) (eq : ∀ s : State, exec i s = s.setPair g k x y) : Shape P i :=
  .masked g _ _ (by simp [named]) unaddressed fun s hs => by rw [eq s, State.setPair, hs]

theorem exec_shape (P : Params) (i : Instr) : Shape P i := by
  cases i
  case aux1On | aux2On | aux3On | aux4On | resetOff | motorABackward | motorBForward =>
    exact setSignal_shape true rfl rfl fun _ _ => rfl
  case aux1Off | aux2Off | aux3Off | aux4Off | resetOn | motorAForward | motorBBackward =>
    exact setSignal_shape false rfl rfl fun _ _ => rfl
  case sleepOn => exact setSignal_shape P.sleepOn.bit rfl rfl fun s hs => hs ▸ rfl
  case sleepOff => exact setSignal_shape P.sleepOn.other.bit rfl rfl fun s hs => hs ▸ rfl
  case microstepFull => exact setPair_shape false false rfl rfl fun _ => rfl
  case microstepHalf => exact setPair_shape true false rfl rfl fun _ => rfl
  case microstepQuarter => exact setPair_shape false true rfl rfl fun _ => rfl
  case microstepSixteenth => exact setPair_shape true true rfl rfl fun _ => rfl
  case motorAOn => exact .slot .a (.run .on) rfl rfl fun s _ => run_eq .a .on s
  case motorAOff => exact .slot .a (.run .off) rfl rfl fun s _ => run_eq .a .off s
  case motorBOn => exact .slot .b (.run .on) rfl rfl fun s _ => run_eq .b .on s
  case motorBOff => exact .slot .b (.run .off) rfl rfl fun s _ => run_eq .b .off s
  case speedA p => exact speedInstr_shape P .a p
  case speedB p => exact speedInstr_shape P .b p
  case power p => exact .power p rfl fun _ _ => rfl

/-! ## What a command leaves alone, and where it stops -/

theorem State.setMasked_rest {s t : State} {p : Nat} {m v : Byte} (h : s.setMasked p m v = .next t) :
    t = { s with ports := t.ports } := by
  obtain ⟨r, -, rfl⟩ := State.setMasked_cases h
  rfl

theorem State.setMasked_ports_length {s t : State} {p : Nat} {m v : Byte} (h : s.setMasked p m v = .next t) :
    t.ports.length = s.ports.length := by
  obtain ⟨r, -, rfl⟩ := State.setMasked_cases h
  exact List.length_set

/-- All a command can have done when it answers, on any layout. -/
inductive ExecCase (i : Instr) (s t : State) : Prop where
  /-- one masked update, at the port of a signal it names -/
  | masked (g : Signal) (m v : Byte) (named : g ∈ namedSignals i) (unaddressed : addressedMotor i = none)
      (set : s.setMasked (s.params.layout.at g).port m v = .next t) (rest : t = { s with ports := t.ports })
  /-- one write of its motor's slot -/
  | slot (m : Motor) (w : SlotWrite) (addressed : addressedMotor i = some m) (unnamed : namedSignals i = [])
      (eq : t = s.updateMotor m w)
  /-- a speed byte that is no level's code (R202) -/
  | undefinedSpeed (m : Motor) (p : Byte) (instr : i = speedInstr m p) (bad : s.params.speedCode.decodeSpeed p = none)
      (eq : t = badSpeed m s)
  /-- the power register -/
  | power (p : Byte) (instr : i = .power p) (eq : t = s.setPwr (powerLevel p))

theorem exec_cases {i : Instr} {s t : State} (h : exec i s = .next t) : ExecCase i s t := by
  cases exec_shape s.params i with
  | masked g m v named unaddressed eq =>
    have hset := (eq s rfl).symm.trans h
    exact .masked g m v named unaddressed hset (State.setMasked_rest hset)
  | slot m w addressed unnamed eq => exact .slot m w addressed unnamed (Host.Outcome.next.inj (h.symm.trans (eq s rfl)))
  | undefinedSpeed m p instr bad eq => exact .undefinedSpeed m p instr bad (Host.Outcome.next.inj (h.symm.trans (eq s rfl)))
  | power p instr eq => exact .power p instr (Host.Outcome.next.inj (h.symm.trans (eq s rfl)))

/-- What no command writes: every component but the contents of the ports, the slots, `pwr` and the faults. -/
structure KeepsControl (s t : State) : Prop where
  params    : t.params = s.params
  portCount : t.ports.length = s.ports.length
  dstate    : t.dstate = s.dstate
  rx        : t.rx = s.rx
  msgLen    : t.msgLen = s.msgLen
  arrivals  : t.arrivals = s.arrivals

theorem exec_keepsControl {i : Instr} {s t : State} (h : exec i s = .next t) : KeepsControl s t := by
  cases exec_cases h with
  | masked _ _ _ _ _ set rest =>
    have hcount := State.setMasked_ports_length set
    rw [rest] at hcount ⊢
    exact ⟨rfl, hcount, rfl, rfl, rfl, rfl⟩
  | slot _ _ _ _ eq => constructor <;> simp [eq]
  | undefinedSpeed _ _ _ _ eq => constructor <;> simp [eq, badSpeed_eq]
  | power _ _ eq => constructor <;> simp [eq]

/-- A command changes no slot but its motor's (R161). -/
theorem exec_tmr {i : Instr} {s t : State} (h : exec i s = .next t) {u : Slot}
    (hu : ∀ m, addressedMotor i = some m → s.params.timerOf.of m ≠ u) : t.tmr u = s.tmr u := by
  cases exec_cases h with
  | masked _ _ _ _ _ _ rest =>
    rw [rest]
    cases u <;> rfl
  | slot m _ addressed _ eq => simp [eq, (hu m addressed).symm]
  | undefinedSpeed m _ instr _ eq =>
    have hm := hu m (by simp [instr])
    simp [eq, badSpeed_eq, hm.symm]
  | power _ _ eq =>
    rw [eq]
    cases u <;> rfl

/-- A command that names no signal writes no port (R138, R161). -/
theorem exec_ports {i : Instr} {s t : State} (h : exec i s = .next t) (hi : namedSignals i = []) : t.ports = s.ports := by
  cases exec_cases h with
  | masked _ _ _ named => simp [hi] at named
  | slot _ _ _ _ eq => simp [eq]
  | undefinedSpeed _ _ _ _ eq => simp [eq, badSpeed_eq]
  | power _ _ eq => simp [eq]

/-- Only POWER writes the power register (R29). -/
theorem exec_pwr {i : Instr} {s t : State} (h : exec i s = .next t) :
    t.pwr = s.pwr ∨ ∃ p, i = .power p ∧ t.pwr = some (powerLevel p) := by
  cases exec_cases h with
  | masked _ _ _ _ _ _ rest => exact .inl (by rw [rest])
  | slot _ _ _ _ eq => exact .inl (by simp [eq])
  | undefinedSpeed _ _ _ _ eq => exact .inl (by simp [eq, badSpeed_eq])
  | power p instr eq => exact .inr ⟨p, instr, by simp [eq]⟩

/-- Only an undefined speed byte records a fault (R202). -/
theorem exec_faults {i : Instr} {s t : State} (h : exec i s = .next t) :
    t.faults = s.faults ∨
      ∃ m p, i = speedInstr m p ∧ s.params.speedCode.decodeSpeed p = none ∧ t.faults = s.faults.add .badSpeedArg := by
  cases exec_cases h with
  | masked _ _ _ _ _ _ rest => exact .inl (by rw [rest])
  | slot _ _ _ _ eq => exact .inl (by simp [eq])
  | undefinedSpeed m p instr bad eq => exact .inr ⟨m, p, instr, bad, by simp [eq, badSpeed_eq]⟩
  | power _ _ eq => exact .inl (by simp [eq])

/-- Settles O19, one component at a time. -/
theorem commandFrame : Obligations.CommandFrame := by
  intro s t i h
  obtain ⟨hparams, -, hdstate, hrx, hmsgLen, harrivals⟩ := exec_keepsControl h
  refine ⟨fun _ => exec_tmr h, exec_ports h, fun hi => ?_, fun hwf => ?_, hparams, hdstate, hrx, hmsgLen, harrivals⟩
  · rcases exec_pwr h with hpwr | ⟨p, rfl, -⟩
    · exact hpwr
    · exact absurd rfl (hi p)
  · rcases exec_faults h with hfaults | ⟨m, p, rfl, hbad, -⟩
    · exact hfaults
    · simp [hbad] at hwf

/-- Settles O18: the only shape that can stop is a masked update, and its port exists on a legal layout. -/
theorem everyCommandCompletes : Obligations.EveryCommandCompletes := by
  intro s hf i
  cases exec_shape s.params i with
  | masked g m v _ _ eq => exact ⟨_, (eq s rfl).trans (State.setMasked_eq s (List.getElem?_eq_getElem (hf.port_lt g)) m v)⟩
  | slot m w _ _ eq => exact ⟨_, eq s rfl⟩
  | undefinedSpeed m p _ _ eq => exact ⟨_, eq s rfl⟩
  | power p _ eq => exact ⟨_, eq s rfl⟩

/-- A command stops only at a missing port of a signal it names (log 4). -/
theorem exec_fault {i : Instr} {s : State} {r : Fault} (h : exec i s = .fault r) :
    ∃ g ∈ namedSignals i, s.ports.length ≤ (s.params.layout.at g).port ∧ r = .noSuchPort (s.params.layout.at g).port := by
  cases exec_shape s.params i with
  | masked g m v named _ eq => exact ⟨g, named, State.setMasked_fault ((eq s rfl).symm.trans h)⟩
  | slot m w _ _ eq => exact absurd ((eq s rfl).symm.trans h) (by simp)
  | undefinedSpeed m p _ _ eq => exact absurd ((eq s rfl).symm.trans h) (by simp)
  | power p _ eq => exact absurd ((eq s rfl).symm.trans h) (by simp)

theorem exec_ne_refused (i : Instr) (s : State) (r : Refusal) : exec i s ≠ .refused r := by
  cases exec_shape s.params i with
  | masked g m v _ _ eq =>
    rw [eq s rfl]
    exact s.setMasked_ne_refused _ m v r
  | slot m w _ _ eq => simp [eq s rfl]
  | undefinedSpeed m p _ _ eq => simp [eq s rfl]
  | power p _ eq => simp [eq s rfl]

/-- Settles O21: the second execution is the same update, over a state that already holds what it writes. -/
theorem commandsIdempotent : Obligations.CommandsIdempotent := by
  intro s t i h
  have hparams : t.params = s.params := (exec_keepsControl h).params
  cases exec_shape s.params i with
  | masked g m v _ _ eq =>
    rw [eq t hparams]
    exact State.setMasked_idempotent ((eq s rfl).symm.trans h)
  | slot m w _ _ eq =>
    obtain rfl := Host.Outcome.next.inj ((eq s rfl).symm.trans h)
    rw [eq _ hparams, State.updateMotor_updateMotor]
  | undefinedSpeed m p _ _ eq =>
    obtain rfl := Host.Outcome.next.inj ((eq s rfl).symm.trans h)
    rw [eq _ hparams, badSpeed_badSpeed]
  | power p _ eq =>
    obtain rfl := Host.Outcome.next.inj ((eq s rfl).symm.trans h)
    exact eq _ hparams

end Sys2Proof.Machine

/-! # The commands one family at a time (R104 to R137, R150 to R159) -/

namespace Sys2Proof.Machine

theorem State.Fits.auxSet_completes {s : State} (h : s.Fits) (k : AuxLine) (level : AuxLevel) :
    ∃ t, auxSet k level s = .next t ∧ Wrote s t [(k.signal, level.bit)] :=
  h.setSignal_completes k.signal level.bit

/-- Settles O8: each command is `aux_set` at its line and level. -/
theorem auxCommands : Obligations.AuxCommands := by
  intro s hf
  simp only [List.forall_mem_cons]
  exact ⟨hf.auxSet_completes .aux1 .on, hf.auxSet_completes .aux1 .off, hf.auxSet_completes .aux2 .on,
    hf.auxSet_completes .aux2 .off, hf.auxSet_completes .aux3 .on, hf.auxSet_completes .aux3 .off,
    hf.auxSet_completes .aux4 .on, hf.auxSet_completes .aux4 .off, List.forall_mem_nil _⟩

theorem exec_sleepOn {s : State} {mode : SleepMode} (h : s.params.sleepOn = mode) : exec .sleepOn s = setSleep mode s :=
  h ▸ rfl

theorem exec_sleepOff {s : State} {mode : SleepMode} (h : s.params.sleepOn = mode) :
    exec .sleepOff s = setSleep mode.other s :=
  h ▸ rfl

/-- Settles O12: SLEEP_ON is `set_sleep` at the map's mode and SLEEP_OFF at the other one. -/
theorem sleepCommands : Obligations.SleepCommands := by
  intro s hf
  refine ⟨fun hmap => ?_, fun hmap => ?_, rfl⟩
  · rw [exec_sleepOn hmap, exec_sleepOff hmap]
    exact ⟨hf.setSleep_completes .motorsOff, hf.setSleep_completes .motorsOn⟩
  · rw [exec_sleepOn hmap, exec_sleepOff hmap]
    exact ⟨hf.setSleep_completes .motorsOn, hf.setSleep_completes .motorsOff⟩

/-- Settles O16: the command is `badSpeed`, one write of the motor's slot and one recorded fault. -/
theorem undefinedSpeed : Obligations.UndefinedSpeed := by
  intro s p hbad m
  have hexec : exec (speedInstr m p) s = .next (badSpeed m s) := by
    rw [exec_speedInstr, speedCommand_of_undefined hbad]
  have hslot : (badSpeed m s).motorTmr m = ⟨none, none, (s.motorTmr m).en⟩ := s.updateMotor_motorTmr m .unknown
  have hrest : badSpeed m s =
      { s with tmr0 := (badSpeed m s).tmr0, tmr1 := (badSpeed m s).tmr1, faults := (badSpeed m s).faults } := by
    rw [badSpeed_eq, s.updateMotor_rest]
    rfl
  exact ⟨badSpeed m s, hexec, hslot, s.updateMotor_tmr_of_ne m .unknown, by simp [badSpeed_eq, FaultSet.has_add],
    by simp [badSpeed_eq, FaultSet.has_add], hrest⟩

/-- `run` writes the enable of its motor's slot and nothing else (R154). -/
theorem run_completes (s : State) (m : Motor) (mode : RunMode) :
    ∃ t, run m mode s = .next t ∧ t.motorTmr m = { s.motorTmr m with en := mode.bit } ∧
      (∀ u, u ≠ s.params.timerOf.of m → t.tmr u = s.tmr u) ∧ t = { s with tmr0 := t.tmr0, tmr1 := t.tmr1 } :=
  ⟨_, run_eq m mode s, s.updateMotor_motorTmr m _, s.updateMotor_tmr_of_ne m _, s.updateMotor_rest m _⟩

/-- Settles O17: each command is `run` at its motor and mode. -/
theorem runCommands : Obligations.RunCommands := by
  intro s
  simp only [List.forall_mem_cons]
  exact ⟨run_completes s .a .on, run_completes s .a .off, run_completes s .b .on, run_completes s .b .off,
    List.forall_mem_nil _⟩

/-! ## The signals a command does not name (R102) -/

/-- Where outputs mirror shadows, a line is its shadow bit (R33). -/
theorem State.Mirrored.outBit_eq {s : State} (h : s.Mirrored) (p : Nat) (b : Fin 8) : s.outBit p b = s.shadowBit p b := by
  unfold State.outBit State.shadowBit
  split
  · next r hr => rw [h r (List.mem_of_getElem? hr)]
  · rfl

/-- A signal write leaves every line that is not one of its signals', where outputs mirror shadows. -/
theorem Wrote.outBit_kept {s t : State} {w : List (Signal × Bool)} (h : Wrote s t w) (hm : s.Mirrored) {p : Nat} {b : Fin 8}
    (hpb : ∀ gx ∈ w, s.params.layout.at gx.1 ≠ ⟨p, b⟩) : t.outBit p b = s.outBit p b := by
  rw [h.outputs]
  split
  · rw [h.kept p b hpb, hm.outBit_eq]
  · rfl

theorem State.shadowBit_congr {s t : State} (h : t.ports = s.ports) (p : Nat) (b : Fin 8) : t.shadowBit p b = s.shadowBit p b := by
  simp [State.shadowBit, h]

theorem State.outBit_congr {s t : State} (h : t.ports = s.ports) (p : Nat) (b : Fin 8) : t.outBit p b = s.outBit p b := by
  simp [State.outBit, h]

theorem State.bit_congr {s t : State} (hparams : t.params = s.params) (hports : t.ports = s.ports) (g : Signal) :
    t.bit g = s.bit g := by
  simp [State.bit, hparams, State.shadowBit_congr hports]

/-- Settles O20: a command that names signals wrote them alone, and any other command wrote no port. -/
theorem maskDiscipline : Obligations.MaskDiscipline := by
  intro s t i hf h p b hpb
  have kept_of_unnamed (hi : namedSignals i = []) :
      t.shadowBit p b = s.shadowBit p b ∧ (s.Mirrored → t.outBit p b = s.outBit p b) :=
    have hports := exec_ports h hi
    ⟨State.shadowBit_congr hports p b, fun _ => State.outBit_congr hports p b⟩
  cases exec_effect hf h with
  | signals w names _ wrote =>
    have hw : ∀ gx ∈ w, s.params.layout.at gx.1 ≠ ⟨p, b⟩ := fun gx hgx =>
      hpb gx.1 (names ▸ List.mem_map_of_mem hgx)
    exact ⟨wrote.kept p b hw, fun hm => wrote.outBit_kept hm hw⟩
  | slot _ _ _ unnamed => exact kept_of_unnamed unnamed
  | undefinedSpeed _ _ unnamed => exact kept_of_unnamed unnamed
  | power p instr => exact kept_of_unnamed (instr ▸ rfl)

/-! ## Independence of all but the parameters and the shadow bytes (R26, R27) -/

theorem SameInputs.shadow_getElem? {s s' : State} (h : SameInputs s s') (p : Nat) :
    s'.ports[p]?.map PortRegs.shadow = s.ports[p]?.map PortRegs.shadow := by
  rw [← List.getElem?_map, ← List.getElem?_map, h.shadows]

theorem SameInputs.shadowBit_eq {s s' : State} (h : SameInputs s s') (p : Nat) (b : Fin 8) :
    s'.shadowBit p b = s.shadowBit p b := by
  have hp := h.shadow_getElem? p
  unfold State.shadowBit
  cases hs : s.ports[p]? <;> cases hs' : s'.ports[p]? <;> simp_all

theorem SameChange.kept {α : Type} (a a' : α) : SameChange a a a' a' := .inl ⟨rfl, rfl⟩

/-- A write that gives a value, or leaves what is there, is the same change of any two values. -/
theorem SameChange.getD {α : Type} (w : Option α) (a a' : α) : SameChange a (w.getD a) a' (w.getD a') := by
  cases w with
  | none => exact .kept a a'
  | some v => exact .inr rfl

/-- A write of no field. -/
def SlotWrite.nothing : SlotWrite := ⟨none, none, none⟩

@[simp] theorem TimerSlot.update_nothing (c : TimerSlot) : c.update .nothing = c := rfl

/-- One write, the same in both runs, of the slot `u`. -/
def SameSlotWrite (s t s' t' : State) (u : Slot) : Prop :=
  ∃ w : SlotWrite, t.tmr u = (s.tmr u).update w ∧ t'.tmr u = (s'.tmr u).update w

theorem SameSlotWrite.of_kept {s t s' t' : State} {u : Slot} (h : t.tmr u = s.tmr u) (h' : t'.tmr u = s'.tmr u) :
    SameSlotWrite s t s' t' u :=
  ⟨.nothing, by simp [h], by simp [h']⟩

theorem SameInputs.updateMotor_slots {s s' : State} (hin : SameInputs s s') (m : Motor) (w : SlotWrite) (u : Slot) :
    SameSlotWrite s (s.updateMotor m w) s' (s'.updateMotor m w) u := by
  by_cases hu : u = s.params.timerOf.of m
  · exact ⟨w, by simp [hu], by simp [hu, hin.params]⟩
  · exact .of_kept (by simp [hu]) (by simp [hu, hin.params])

/-- Two runs of a command did the same if they did the same to the inputs, the outputs, the slots, `pwr` and the faults. -/
theorem SameEffect.of_exec {i : Instr} {s t s' t' : State} (h : exec i s = .next t) (h' : exec i s' = .next t')
    (inputs : SameInputs t t')
    (outputs : ∀ p b, SameChange (s.outBit p b) (t.outBit p b) (s'.outBit p b) (t'.outBit p b))
    (slots : ∀ u, SameSlotWrite s t s' t' u) (pwr : SameChange s.pwr t.pwr s'.pwr t'.pwr)
    (faults : ∀ k, SameChange (s.faults.has k) (t.faults.has k) (s'.faults.has k) (t'.faults.has k)) :
    SameEffect s t s' t' := by
  have hk := exec_keepsControl h
  have hk' := exec_keepsControl h'
  refine ⟨inputs, outputs, fun u => ?_, fun u => ?_, fun u => ?_, pwr, faults, ⟨hk.dstate, hk'.dstate⟩, ⟨hk.rx, hk'.rx⟩,
    ⟨hk.msgLen, hk'.msgLen⟩, ⟨hk.arrivals, hk'.arrivals⟩⟩ <;> obtain ⟨w, hw, hw'⟩ := slots u <;> rw [hw, hw']
  · exact .getD w.presc _ _
  · exact .getD w.period _ _
  · exact .getD w.en _ _

/-- A masked update does the same to the shadow bytes and the outputs of two states with the same shadow bytes, and keeps the rest
of each. -/
theorem SameInputs.setMasked_same {s s' t : State} (hin : SameInputs s s') {p : Nat} {m v : Byte}
    (h : s.setMasked p m v = .next t) : ∃ t', s'.setMasked p m v = .next t' ∧ SameInputs t t' ∧
      (∀ q b, SameChange (s.outBit q b) (t.outBit q b) (s'.outBit q b) (t'.outBit q b)) ∧
      t = { s with ports := t.ports } ∧ t' = { s' with ports := t'.ports } := by
  obtain ⟨r, hr, ht⟩ := State.setMasked_cases h
  obtain ⟨r', hr', hshadow⟩ : ∃ r', s'.ports[p]? = some r' ∧ r'.shadow = r.shadow := by
    simpa [hr] using hin.shadow_getElem? p
  have h' := State.setMasked_eq s' hr' m v
  have hinputs : SameInputs t { s' with
      ports := s'.ports.set p ⟨maskedByte r'.shadow m v, maskedByte r'.shadow m v⟩ } :=
    ⟨by simp [ht, hin.params], by simp [ht, List.map_set, hin.shadows, hshadow]⟩
  refine ⟨_, h', hinputs, fun q b => ?_, by simp [ht], rfl⟩
  rw [State.setMasked_outBit h, State.setMasked_outBit h', hinputs.shadowBit_eq]
  split
  · exact .inr rfl
  · exact .kept _ _

/-- Settles O22, shape by shape: the second run is the same update of the other state. -/
theorem outputsNeverRead : Obligations.OutputsNeverRead := by
  intro s s' t i hin h
  cases exec_shape s.params i with
  | masked g m v _ _ eq =>
    obtain ⟨t', h', hinputs, houtputs, hrest, hrest'⟩ := hin.setMasked_same ((eq s rfl).symm.trans h)
    have hexec' := (eq s' hin.params).trans h'
    refine ⟨t', hexec', .of_exec h hexec' hinputs houtputs (fun u => ?_) ?_ fun k => ?_⟩ <;> rw [hrest, hrest']
    · exact .of_kept (by cases u <;> rfl) (by cases u <;> rfl)
    · exact .kept _ _
    · exact .kept _ _
  | slot m w _ _ eq =>
    obtain rfl := Host.Outcome.next.inj ((eq s rfl).symm.trans h)
    have hexec' := eq s' hin.params
    refine ⟨_, hexec', .of_exec h hexec' ⟨by simp [hin.params], by simp [hin.shadows]⟩ (fun p b => ?_)
      (hin.updateMotor_slots m w) ?_ fun k => ?_⟩ <;> simp [SameChange]
  | undefinedSpeed m p _ _ eq =>
    obtain rfl := Host.Outcome.next.inj ((eq s rfl).symm.trans h)
    have hexec' := eq s' hin.params
    refine ⟨_, hexec', .of_exec h hexec' ⟨by simp [badSpeed_eq, hin.params], by simp [badSpeed_eq, hin.shadows]⟩
      (fun p b => ?_) (fun u => ?_) ?_ fun k => ?_⟩
    · simp [SameChange, badSpeed_eq]
    · simpa [badSpeed_eq, SameSlotWrite] using hin.updateMotor_slots m .unknown u
    · simp [SameChange, badSpeed_eq]
    · cases k <;> simp [SameChange, badSpeed_eq, FaultSet.has_add]
  | power p _ eq =>
    obtain rfl := Host.Outcome.next.inj ((eq s rfl).symm.trans h)
    have hexec' := eq s' hin.params
    exact ⟨_, hexec', .of_exec h hexec' ⟨hin.params, hin.shadows⟩ (fun _ _ => .kept _ _)
      (fun u => .of_kept (by cases u <;> rfl) (by cases u <;> rfl)) (.inr rfl) fun _ => .kept _ _⟩

/-! ## The views (R30) -/

/-- Two signals have two places (R23). -/
theorem State.Fits.at_ne {s : State} (h : s.Fits) {g k : Signal} (hgk : g ≠ k) : s.params.layout.at g ≠ s.params.layout.at k := by
  have hinj : s.params.layout.Injective := h.2.1
  exact fun hat => hgk (List.inj_on_of_nodup_map hinj (by cases g <;> decide) (by cases k <;> decide) hat)

theorem Wrote.params_eq {s t : State} {w : List (Signal × Bool)} (h : Wrote s t w) : t.params = s.params := by
  rw [h.rest]

/-- The bit of a signal that is not written is as before. -/
theorem Wrote.bit_kept {s t : State} {w : List (Signal × Bool)} (h : Wrote s t w) (hf : s.Fits) {g : Signal}
    (hg : ∀ gx ∈ w, gx.1 ≠ g) : t.bit g = s.bit g := by
  rw [State.bit, h.params_eq]
  exact h.kept _ _ fun gx hgx => hf.at_ne (hg gx hgx)

theorem State.setSignal_bit {s t : State} {g : Signal} {x : Bool} (h : s.setSignal g x = .next t) : t.bit g = x :=
  (State.setSignal_wrote h).written (g, x) List.mem_cons_self

theorem State.setSignal_bit_of_ne {s t : State} (hf : s.Fits) {g k : Signal} {x : Bool} (h : s.setSignal g x = .next t)
    (hk : k ≠ g) : t.bit k = s.bit k :=
  (State.setSignal_wrote h).bit_kept hf (by simpa using hk.symm)

/-- The direction view of a motor shows its signal's bit and nothing else. -/
theorem State.direction_congr {s t : State} {m : Motor} (h : t.bit m.dirSignal = s.bit m.dirSignal) :
    t.direction m = s.direction m := by
  cases m <;> simp only [Motor.dirSignal] at h <;> simp [State.direction, h]

theorem State.direction_of_bit {t : State} {m : Motor} {d : Direction} (h : t.bit m.dirSignal = directionBit m d) :
    t.direction m = d := by
  cases m <;> cases d <;> simp only [Motor.dirSignal, directionBit] at h <;> simp [State.direction, h]

theorem setDirection_view {s t : State} {m : Motor} {d : Direction} (hf : s.Fits) (h : setDirection m d s = .next t) :
    t.direction m = d ∧ ∀ m', m' ≠ m → t.direction m' = s.direction m' := by
  refine ⟨State.direction_of_bit (State.setSignal_bit h), fun m' hm => State.direction_congr ?_⟩
  exact State.setSignal_bit_of_ne hf h (by cases m <;> cases m' <;> simp_all [Motor.dirSignal])

theorem setMicrostepping_view {s t : State} {r : Microstep} (hf : s.Fits) (h : setMicrostepping r s = .next t) :
    t.microstep = r := by
  have hw := (State.setPair_wrote hf h).written
  have h1 : t.bit .ms1 = r.line1 := hw (.ms1, r.line1) (by simp)
  have h2 : t.bit .ms2 = r.line2 := hw (.ms2, r.line2) (by simp)
  cases r <;> simp [State.microstep, h1, h2, Microstep.line1, Microstep.line2]

theorem setReset_view {s t : State} {r : ResetState} (h : setReset r s = .next t) : t.resetState = r := by
  have hbit : t.bit .rstRel = r.bit := State.setSignal_bit h
  cases r <;> simp [State.resetState, hbit, ResetState.bit]

theorem setSleep_view {s t : State} {mode : SleepMode} (h : setSleep mode s = .next t) : t.sleepMode = mode := by
  have hbit : t.bit .sleep = mode.bit := State.setSignal_bit h
  cases mode <;> simp [State.sleepMode, hbit, SleepMode.bit]

theorem auxSet_view {s t : State} {k : AuxLine} {level : AuxLevel} (hf : s.Fits) (h : auxSet k level s = .next t) :
    t.auxLevel k = level ∧ ∀ k', k' ≠ k → t.auxLevel k' = s.auxLevel k' := by
  have hbit : t.bit k.signal = level.bit := State.setSignal_bit h
  constructor
  · cases level <;> simp [State.auxLevel, hbit, AuxLevel.bit]
  · intro k' hk
    have hne : k'.signal ≠ k.signal := by cases k <;> cases k' <;> simp_all [AuxLine.signal]
    simp [State.auxLevel, State.setSignal_bit_of_ne hf h hne]

theorem TimerOf.of_injective {T : TimerOf} (hT : T.WF) {m m' : Motor} (h : m' ≠ m) : T.of m' ≠ T.of m := by
  cases m <;> cases m' <;> simp_all [TimerOf.of, TimerOf.WF, eq_comm]

theorem run_view {s t : State} {m : Motor} {mode : RunMode} (h : run m mode s = .next t) :
    t.runMode m = mode ∧ (s.params.timerOf.WF → ∀ m', m' ≠ m → t.runMode m' = s.runMode m') := by
  obtain rfl := Host.Outcome.next.inj ((run_eq m mode s).symm.trans h)
  constructor
  · cases mode <;> simp [State.runMode, State.updateMotor_motorTmr, TimerSlot.update, SlotWrite.run, RunMode.bit]
  · intro hT m' hm
    have hslot : (s.updateMotor m (.run mode)).motorTmr m' = s.motorTmr m' := by
      simp [State.motorTmr, TimerOf.of_injective hT hm]
    rw [State.runMode, State.runMode, hslot]

theorem power_view {s t : State} {p : Byte} (h : exec (.power p) s = .next t) :
    t.power.map BitVec.toNat = some (p.toNat % 32) := by
  obtain rfl : s.setPwr (powerLevel p) = t := Host.Outcome.next.inj h
  simp [State.power]

/-- Settles O23: each command is its operation at the arguments its name says, and each operation's view lemma does the rest. -/
theorem viewsFollowCommands : Obligations.ViewsFollowCommands := by
  intro s t hf
  simp only [List.forall_mem_cons]
  refine ⟨⟨?_, ?_, ?_, ?_, List.forall_mem_nil _⟩, ⟨?_, ?_, ?_, ?_, List.forall_mem_nil _⟩,
    ⟨?_, ?_, List.forall_mem_nil _⟩, ⟨?_, ?_, List.forall_mem_nil _⟩,
    ⟨?_, ?_, ?_, ?_, ?_, ?_, ?_, ?_, List.forall_mem_nil _⟩, ⟨?_, ?_, ?_, ?_, List.forall_mem_nil _⟩, fun _ => power_view⟩
  iterate 4 exact setDirection_view hf
  iterate 4 exact setMicrostepping_view hf
  iterate 2 exact setReset_view
  iterate 2
    intro hmap
    rw [exec_sleepOn hmap, exec_sleepOff hmap]
    exact ⟨setSleep_view, setSleep_view⟩
  iterate 8 exact auxSet_view hf
  iterate 4 exact run_view

/-- Settles O24: the slot holds the level's pair after the command, and pulses, levels and speed view are read off it. -/
theorem pulsesAfterSpeed : Obligations.PulsesAfterSpeed := by
  intro s t m k n hC h
  rw [exec_speedInstr, speedCommand_of_decode (SpeedCode.decodeSpeed_of hC k), setSpeed_eq] at h
  obtain rfl := Host.Outcome.next.inj h
  have hslot : (s.updateMotor m (.speed k)).motorTmr m =
      ⟨some (Config.speedTable k).1, some (Config.speedTable k).2, (s.motorTmr m).en⟩ := s.updateMotor_motorTmr m _
  have htmr : (s.updateMotor m (.speed k)).tmr (s.params.timerOf.of m) =
      ⟨some (Config.speedTable k).1, some (Config.speedTable k).2, (s.motorTmr m).en⟩ := by
    rw [← hslot, State.motorTmr, State.updateMotor_params]
  have hlevel : k ∈ ((s.updateMotor m (.speed k)).motorTmr m).levels :=
    TimerSlot.mem_levels.2 ⟨by rw [hslot], by rw [hslot]⟩
  refine ⟨?_, hlevel, ?_⟩
  · cases hen : (s.motorTmr m).en <;> simp [State.stepPulses, htmr, hen]
  · split
    · next hinj => exact State.speed_eq_some hinj hlevel
    · next hinj => simp [State.speed, hinj]

end Sys2Proof.Machine

/-! # The state machine (R170 to R176)

A step that executes no command keeps the parameters, the ports, the slots and `pwr`; what a step does to those is what the executed
command did to them. -/

namespace Sys2Proof.Machine

theorem dispatchMessage_of_cmd {s : State} {m : Message} {i : Instr} (h : decode s.params.cmdCode m = .cmd i) :
    dispatchMessage m s = consumeAfter (exec i s) := by
  simp [dispatchMessage, h]

theorem dispatchMessage_of_shortMessage {s : State} {m : Message} (h : decode s.params.cmdCode m = .shortMessage) :
    dispatchMessage m s = .next (s.raise .shortMessage).consume := by
  simp [dispatchMessage, h]

/-- Dispatching a command's message, the step is the command and then the consumption of the message (R171, R172). -/
theorem step_of_cmd {s : State} {i : Instr} (hbusy : s.dstate = .dispatching) (hlen : s.msgLen ≠ 0)
    (hdec : decode s.params.cmdCode s.message = .cmd i) : step s = consumeAfter (exec i s) := by
  rw [step_of_dispatching hbusy hlen, dispatchMessage_of_cmd hdec]

/-- Settles O26: each of the three outcomes of the command passes through the consumption. -/
theorem stepRunsDecoded : Obligations.StepRunsDecoded := by
  intro s i hbusy hlen hdec
  rw [step_of_cmd hbusy hlen hdec]
  refine ⟨fun t ht => ?_, fun r hr => ?_, fun r hr => ?_⟩
  · rw [ht]
    rfl
  · rw [hr]
    rfl
  · rw [hr]
    rfl

/-- Settles O27: the buffer begins with the message's bytes, so the message read back is the one sent. -/
theorem messageAsSent : Obligations.MessageAsSent := by
  intro s m
  refine ⟨s.message_deliver m, rfl, fun i hi => ?_⟩
  have hbytes : i < m.bytes.length := hi
  simp [State.rxByte, List.getElem?_append_left hbytes, hbytes]

theorem step_of_idle {s : State} (hidle : s.dstate = .idle) : step s = idleStep s := by
  simp [step, transition, hidle]

/-- Without a message arriving over a pending one, an idle machine takes the pending message up (R170). -/
theorem step_of_pending {s : State} (hidle : s.dstate = .idle) (hlen : s.msgLen ≠ 0)
    (harr : ∀ a, s.arrivals.head? = some a → a.replaces = false) : step s = .next { s with dstate := .dispatching } := by
  have hpoll : poll s = .next { s with dstate := .dispatching } := by simp [poll, hlen]
  rw [step_of_idle hidle, ← hpoll]
  cases h : s.arrivals with
  | nil => simp [idleStep, h]
  | cons a later => simp [idleStep, h, hlen, harr a (by simp [h])]

theorem step_of_waiting {s : State} (hidle : s.dstate = .idle) (hlen : s.msgLen = 0) (harr : s.arrivals = []) :
    step s = .next s := by
  simp [step_of_idle hidle, idleStep, harr, poll, hlen]

/-- With nothing pending, an idle machine gets the transport's next message (log 9). -/
theorem step_of_arrival {s : State} (hidle : s.dstate = .idle) (hlen : s.msgLen = 0) {a : Arrival} {later : List Arrival}
    (harr : s.arrivals = a :: later) : step s = .next ({ s with arrivals := later }.deliver a.msg) := by
  simp [step_of_idle hidle, idleStep, harr, hlen]

/-- Settles O28, by the taking up of a pending message and by the waiting step. -/
theorem idleSteps : Obligations.IdleSteps := by
  intro s hidle
  exact ⟨step_of_pending hidle, step_of_waiting hidle⟩

/-- Settles O46: the one step from there is the waiting one. -/
theorem endStays : Obligations.EndStays := by
  rintro s t ⟨hidle, hlen, harr⟩ h
  rw [step_of_waiting hidle hlen harr] at h
  exact (Host.Outcome.next.inj h).symm

/-- A pending message of one byte is its code alone. -/
theorem State.message_of_msgLen_one {s : State} (h : s.msgLen = 1) : s.message = ⟨s.rxByte 0, []⟩ := by
  simp [State.message, h]

/-- Settles O30: the code selects an F2 row and the message holds no parameter byte for it. -/
theorem shortMessageRecorded : Obligations.ShortMessageRecorded := by
  intro s hK hbusy hlen hcode
  obtain ⟨withParam, hfind⟩ := CmdCode.find_f2_of hK hcode
  have hdec : decode s.params.cmdCode s.message = .shortMessage := by
    rw [State.message_of_msgLen_one hlen, decode_of_find_f2_nil hfind]
  rw [step_of_dispatching hbusy (by simp [hlen]), dispatchMessage_of_shortMessage hdec]
  rfl

theorem core_run_succ {s s' : State} (h : step s = .next s') (k : Nat) : core.run (k + 1) s = core.run k s' := by
  have hcore : core.step s = .next s' := h
  simp [Host.Core.run, hcore]

/-- Settles O31: the three steps are the arrival, the start and the dispatch of the placed message. -/
theorem messageExecutedOnce : Obligations.MessageExecutedOnce := by
  intro s t i extra r later hK hidle hlen harr hlater hexec
  have harrive := step_of_arrival hidle hlen harr
  have hstart : step ({ s with arrivals := later }.deliver ⟨s.params.cmdCode.of i, i.params ++ extra⟩) =
      .next ({ s with arrivals := later }.place ⟨s.params.cmdCode.of i, i.params ++ extra⟩) :=
    step_of_pending hidle (Nat.succ_ne_zero _) hlater
  have hdec := decode_params_append hK i extra
  have hdispatch : step ({ s with arrivals := later }.place ⟨s.params.cmdCode.of i, i.params ++ extra⟩) = .next t.consume := by
    rw [step_of_cmd rfl (Nat.succ_ne_zero _) (by rwa [State.message_place]), hexec]
    rfl
  refine ⟨?_, (exec_keepsControl hexec).arrivals⟩
  rw [core_run_succ harrive, core_run_succ hstart, core_run_succ hdispatch]
  rfl

/-- Settles O33: a command writes neither, and consumption only clears the length. -/
theorem stableWhileDispatching : Obligations.StableWhileDispatching := by
  intro s t hbusy h
  cases step_cases h with
  | wait idle => simp [idle] at hbusy
  | arrive idle => simp [idle] at hbusy
  | start idle => simp [idle] at hbusy
  | command _ _ i u _ ex eq =>
    have hkept := exec_keepsControl ex
    exact ⟨by simp [eq, hkept.rx], by simp [eq, hkept.arrivals]⟩
  | unrecognized _ _ _ eq => exact ⟨by simp [eq], by simp [eq]⟩
  | short _ _ _ eq => exact ⟨by simp [eq], by simp [eq]⟩

/-- The components a step without a command leaves alone, but for the faults. -/
structure KeepsOutputs (s t : State) : Prop where
  params : t.params = s.params
  ports  : t.ports = s.ports
  tmr    : ∀ u, t.tmr u = s.tmr u
  pwr    : t.pwr = s.pwr

/-- A command executed and consumed. -/
structure Executed (i : Instr) (s u t : State) : Prop where
  busy : s.dstate = .dispatching
  dec  : decode s.params.cmdCode s.message = .cmd i
  ex   : exec i s = .next u
  eq   : t = u.consume

/-- A step executes a command or keeps the outputs. -/
theorem step_outputs {s t : State} (h : step s = .next t) : KeepsOutputs s t ∨ ∃ i u, Executed i s u t := by
  cases step_cases h with
  | wait _ _ _ eq => exact .inl (eq ▸ ⟨rfl, rfl, fun _ => rfl, rfl⟩)
  | arrive _ a later _ _ eq => exact .inl (eq ▸ ⟨rfl, rfl, fun u => by cases u <;> rfl, rfl⟩)
  | start _ _ eq => exact .inl (eq ▸ ⟨rfl, rfl, fun u => by cases u <;> rfl, rfl⟩)
  | command busy _ i u dec ex eq => exact .inr ⟨i, u, busy, dec, ex, eq⟩
  | unrecognized _ _ _ eq => exact .inl (eq ▸ ⟨rfl, rfl, fun u => by cases u <;> rfl, rfl⟩)
  | short _ _ _ eq => exact .inl (eq ▸ ⟨rfl, rfl, fun u => by cases u <;> rfl, rfl⟩)

/-- What a step does to the fault set: nothing, or one of the two causes (R203). -/
theorem step_faults {s t : State} (h : step s = .next t) :
    t.faults = s.faults ∨
    (s.dstate = .dispatching ∧ decode s.params.cmdCode s.message = .shortMessage ∧ t.faults = s.faults.add .shortMessage) ∨
    (s.dstate = .dispatching ∧ ∃ m p, decode s.params.cmdCode s.message = .cmd (speedInstr m p) ∧
      s.params.speedCode.decodeSpeed p = none ∧ t.faults = s.faults.add .badSpeedArg) := by
  cases step_cases h with
  | wait _ _ _ eq => exact .inl (by rw [eq])
  | arrive _ a later _ _ eq => exact .inl (by simp [eq])
  | start _ _ eq => exact .inl (by rw [eq])
  | command busy _ i u dec ex eq =>
    rcases exec_faults ex with hfaults | ⟨m, p, rfl, hbad, hfaults⟩
    · exact .inl (by simp [eq, hfaults])
    · exact .inr (.inr ⟨busy, m, p, dec, hbad, by simp [eq, hfaults]⟩)
  | unrecognized _ _ _ eq => exact .inl (by simp [eq])
  | short busy _ dec eq => exact .inr (.inl ⟨busy, dec, by simp [eq]⟩)

/-- Settles O34: from Idle a step executes no command and records no fault. -/
theorem onlyDispatchWrites : Obligations.OnlyDispatchWrites := by
  intro s t h hidle
  have hfaults : t.faults = s.faults := by
    rcases step_faults h with hkept | ⟨hbusy, -⟩ | ⟨hbusy, -⟩
    · exact hkept
    · simp [hidle] at hbusy
    · simp [hidle] at hbusy
  rcases step_outputs h with hkept | ⟨i, u, hexec⟩
  · exact ⟨hkept.ports, hkept.tmr .slot0, hkept.tmr .slot1, hkept.pwr, hfaults⟩
  · have hbusy := hexec.busy
    simp [hidle] at hbusy

/-- Settles O35: the fault set is kept or gets one more kind. -/
theorem faultsSticky : Obligations.FaultsSticky := by
  intro s t k h hk
  rcases step_faults h with hf | ⟨-, -, hf⟩ | ⟨-, m, p, -, -, hf⟩
  · rw [hf, hk]
  · simp [hf, FaultSet.has_add, hk]
  · simp [hf, FaultSet.has_add, hk]

/-- Settles O36: a changed fault set leaves the two causes of `step_faults`. -/
theorem onlyTwoFaults : Obligations.OnlyTwoFaults := by
  intro s t h hne
  rcases step_faults h with hf | ⟨hbusy, hdec, hf⟩ | ⟨hbusy, m, p, hdec, hbad, hf⟩
  · exact absurd hf hne
  · exact ⟨hbusy, .inl ⟨hdec, hf⟩⟩
  · refine ⟨hbusy, .inr ⟨p, ?_, hbad, hf⟩⟩
    cases m with
    | a => exact .inl hdec
    | b => exact .inr hdec

theorem idleStep_completes (s : State) : ∃ t, idleStep s = .next t := by
  have hpoll : ∃ t, poll s = .next t := by
    unfold poll
    split <;> exact ⟨_, rfl⟩
  unfold idleStep
  split
  · exact hpoll
  · split
    · exact ⟨_, rfl⟩
    · exact hpoll

/-- A message that is being dispatched is there: its own stop is at most its command's missing port (log 7). -/
theorem dispatchMessage_ne_noMessage (m : Message) (s : State) : dispatchMessage m s ≠ .fault .noMessage := by
  cases hdec : decode s.params.cmdCode m with
  | unrecognized => simp [dispatchMessage_of_unrecognized hdec]
  | shortMessage => simp [dispatchMessage_of_shortMessage hdec]
  | cmd i =>
    rw [dispatchMessage_of_cmd hdec]
    cases hex : exec i s with
    | next t => simp [consumeAfter]
    | refused r => simp [consumeAfter]
    | fault r =>
      obtain ⟨g, -, -, rfl⟩ := exec_fault hex
      simp [consumeAfter]

/-- Settles O37: the stops of a command are those of its masked update, and none of them is the dispatcher's own. -/
theorem whereItStops : Obligations.WhereItStops := by
  refine ⟨fun s i r => exec_fault, fun s i r => exec_ne_refused i s r, fun s => ⟨fun h => ?_, fun ⟨hbusy, hlen⟩ => ?_⟩⟩
  · cases hd : s.dstate with
    | idle =>
      obtain ⟨t, ht⟩ := idleStep_completes s
      rw [step_of_idle hd, ht] at h
      cases h
    | dispatching =>
      by_cases hlen : s.msgLen = 0
      · exact ⟨rfl, hlen⟩
      · exact absurd ((step_of_dispatching hd hlen).symm.trans h) (dispatchMessage_ne_noMessage s.message s)
  · simp [step, transition, dispatch, hbusy, hlen]

/-! # Invariants (R25, R28, R33, R57) -/

theorem State.mirrored_of_ports {s t : State} (h : t.ports = s.ports) (hm : s.Mirrored) : t.Mirrored := by
  rw [State.Mirrored, h]
  exact hm

/-- A masked update writes a port's two bytes alike (R100). -/
theorem State.setMasked_mirrored {s t : State} {p : Nat} {m v : Byte} (h : s.setMasked p m v = .next t) (hm : s.Mirrored) :
    t.Mirrored := by
  obtain ⟨r, -, rfl⟩ := State.setMasked_cases h
  intro q hq
  rcases List.mem_or_eq_of_mem_set hq with hold | rfl
  · exact hm q hold
  · rfl

theorem exec_mirrored {i : Instr} {s t : State} (h : exec i s = .next t) (hm : s.Mirrored) : t.Mirrored := by
  cases exec_cases h with
  | masked _ _ _ _ _ set => exact State.setMasked_mirrored set hm
  | slot _ _ _ unnamed => exact State.mirrored_of_ports (exec_ports h unnamed) hm
  | undefinedSpeed _ _ instr => exact State.mirrored_of_ports (exec_ports h (by simp [instr])) hm
  | power _ instr => exact State.mirrored_of_ports (exec_ports h (by simp [instr, namedSignals])) hm

/-- Settles O41: only an executed command writes a port. -/
theorem mirrorKept : Obligations.MirrorKept := by
  intro s t hm h
  rcases step_outputs h with hkept | ⟨i, u, hexec⟩
  · exact State.mirrored_of_ports hkept.ports hm
  · rw [hexec.eq]
    exact State.mirrored_of_ports u.consume_ports (exec_mirrored hexec.ex hm)

/-- A command keeps the bits no signal owns, since it keeps all but those of the signals it names. -/
theorem exec_foreign {i : Instr} {s t : State} (hf : s.Fits) (h : exec i s = .next t) {p : Nat} {b : Fin 8}
    (hpb : s.params.layout.Foreign p b) :
    t.shadowBit p b = s.shadowBit p b ∧ (s.Mirrored → t.outBit p b = s.outBit p b) :=
  maskDiscipline s t i hf h p b fun g _ => hpb g (by cases g <;> decide)

/-- Settles O42: only an executed command writes a port, and it keeps the foreign bits. -/
theorem foreignBitsKept : Obligations.ForeignBitsKept := by
  intro s t hf h p b hpb
  rcases step_outputs h with hkept | ⟨i, u, hexec⟩
  · exact ⟨State.shadowBit_congr hkept.ports p b, fun _ => State.outBit_congr hkept.ports p b⟩
  · rw [hexec.eq]
    exact exec_foreign hf hexec.ex hpb

/-- Settles O43: no command writes the parameters, and a masked update keeps the number of ports. -/
theorem parametersFixed : Obligations.ParametersFixed := by
  intro s t h
  rcases step_outputs h with hkept | ⟨i, u, hexec⟩
  · exact ⟨hkept.params, congrArg List.length hkept.ports⟩
  · have hctl := exec_keepsControl hexec.ex
    rw [hexec.eq]
    exact ⟨hctl.params, hctl.portCount⟩

/-- Settles O44: an executed command keeps the power register or is POWER, which gives it a value. -/
theorem powerWrittenByPower : Obligations.PowerWrittenByPower := by
  intro s t h
  rcases step_outputs h with hkept | ⟨i, u, hexec⟩
  · exact ⟨fun hne => absurd hkept.pwr hne, fun hs => hkept.pwr ▸ hs⟩
  · have hpwr : t.pwr = u.pwr := by simp [hexec.eq]
    rcases exec_pwr hexec.ex with hsame | ⟨p, rfl, hvalue⟩
    · exact ⟨fun hne => absurd (hpwr.trans hsame) hne, fun hs => by rwa [hpwr, hsame]⟩
    · exact ⟨fun _ => ⟨hexec.busy, p, hexec.dec⟩, fun _ => by simp [hpwr, hvalue]⟩

/-! ## The invariant -/

theorem State.Inv.fits {s : State} (h : s.Inv) : s.Fits := by
  obtain ⟨-, -, hlayout, -⟩ := h.legal
  rwa [State.Fits, h.portCount]

/-- A command leaves each slot legal (R28). -/
theorem exec_legal {i : Instr} {s t : State} (hf : s.Fits) (h : exec i s = .next t) (hs : ∀ u, (s.tmr u).Legal) (u : Slot) :
    (t.tmr u).Legal := by
  cases exec_effect hf h with
  | signals w _ unaddressed _ =>
    rw [exec_tmr h (by simp [unaddressed])]
    exact hs u
  | slot m c _ _ legal eq =>
    rw [eq, State.setMotorTmr, State.tmr_setTmr]
    split
    · exact legal (hs _)
    · exact hs u
  | undefinedSpeed m _ _ _ eq =>
    rw [eq, badSpeed_eq, State.raise_tmr, State.updateMotor_tmr]
    split
    · exact .inl ⟨rfl, rfl⟩
    · exact hs u
  | power p instr _ =>
    rw [exec_tmr h (by simp [instr, addressedMotor])]
    exact hs u

/-- A command keeps the invariant. -/
theorem exec_inv {i : Instr} {s t : State} (hinv : s.Inv) (h : exec i s = .next t) : t.Inv := by
  have hf := hinv.fits
  obtain ⟨hparams, hports, hdstate, hrx, hmsgLen, harrivals⟩ := exec_keepsControl h
  have hslots : ∀ u, (s.tmr u).Legal := fun u => by
    cases u
    · exact hinv.slot0
    · exact hinv.slot1
  refine ⟨hparams ▸ hinv.legal, by rw [hports, hparams, hinv.portCount], exec_mirrored h hinv.mirrored, fun p hp b hb => ?_,
    exec_legal hf h hslots .slot0, exec_legal hf h hslots .slot1, by rw [hrx, hmsgLen]; exact hinv.buffered,
    by rw [hrx]; exact hinv.inBuffer, by rw [hdstate, hmsgLen]; exact hinv.pending, by rw [harrivals]; exact hinv.arriving⟩
  rw [hports] at hp
  rw [hparams] at hb ⊢
  rw [(exec_foreign hf h hb).1, hinv.foreign p hp b hb]

theorem State.Inv.consume {s : State} (h : s.Inv) : s.consume.Inv :=
  ⟨h.legal, h.portCount, h.mirrored, h.foreign, h.slot0, h.slot1, Nat.zero_le _, h.inBuffer, fun hbusy => by simp at hbusy,
    h.arriving⟩

theorem State.Inv.raise {s : State} (h : s.Inv) (k : FaultKind) : (s.raise k).Inv :=
  ⟨h.legal, h.portCount, h.mirrored, h.foreign, h.slot0, h.slot1, h.buffered, h.inBuffer, h.pending, h.arriving⟩

/-- A message that fits may arrive at an idle machine, whatever of the transport's future is still to come. -/
theorem State.Inv.deliver {s : State} (h : s.Inv) (hidle : s.dstate = .idle) {m : Message}
    (hm : m.length ≤ Config.rxbufSize) : (s.deliver m).Inv := by
  have hbytes : m.bytes.length = m.length := rfl
  refine ⟨h.legal, h.portCount, h.mirrored, h.foreign, h.slot0, h.slot1, ?_, ?_, fun hbusy => ?_, h.arriving⟩
  · simp [hbytes]
  · have := h.inBuffer
    simp only [State.deliver_rx, List.length_append, List.length_drop, hbytes]
    omega
  · simp [hidle] at hbusy

/-- Settles O40: an arrival changes the buffer and the length alone. -/
theorem arrivalKeepsInvariant : Obligations.ArrivalKeepsInvariant := by
  intro s m hinv hidle hm
  exact hinv.deliver hidle hm

theorem State.Inv.dropArrivals {s : State} (h : s.Inv) {later : List Arrival} (hsub : later ⊆ s.arrivals) :
    State.Inv { s with arrivals := later } :=
  ⟨h.legal, h.portCount, h.mirrored, h.foreign, h.slot0, h.slot1, h.buffered, h.inBuffer, h.pending,
    fun a ha => h.arriving a (hsub ha)⟩

theorem State.Inv.start {s : State} (h : s.Inv) (hlen : s.msgLen ≠ 0) : State.Inv { s with dstate := .dispatching } :=
  ⟨h.legal, h.portCount, h.mirrored, h.foreign, h.slot0, h.slot1, h.buffered, h.inBuffer, fun _ => hlen, h.arriving⟩

/-- Settles O38: every case of a step is made of a command, a consumption, a recorded fault, an arrival or the start of a dispatch,
and each of these keeps the invariant. -/
theorem invariantKept : Obligations.InvariantKept := by
  intro s t hinv h
  cases step_cases h with
  | wait _ _ _ eq => rwa [eq]
  | arrive idle a later arr _ eq =>
    have hsub : later ⊆ s.arrivals := arr ▸ List.subset_cons_self a later
    have hfits : a.msg.length ≤ Config.rxbufSize := hinv.arriving a (by simp [arr])
    rw [eq]
    exact (hinv.dropArrivals hsub).deliver idle hfits
  | start _ len eq =>
    rw [eq]
    exact hinv.start len
  | command _ _ i u _ ex eq =>
    rw [eq]
    exact (exec_inv hinv ex).consume
  | unrecognized _ _ _ eq =>
    rw [eq]
    exact hinv.consume
  | short _ _ _ eq =>
    rw [eq]
    exact (hinv.raise .shortMessage).consume

theorem dispatchMessage_completes {s : State} (hf : s.Fits) (m : Message) :
    ∃ t, dispatchMessage m s = .next t ∧ t.dstate = .idle ∧ t.msgLen = 0 := by
  cases hdec : decode s.params.cmdCode m with
  | unrecognized => exact ⟨_, dispatchMessage_of_unrecognized hdec, rfl, rfl⟩
  | shortMessage => exact ⟨_, dispatchMessage_of_shortMessage hdec, rfl, rfl⟩
  | cmd i =>
    obtain ⟨u, hu⟩ := everyCommandCompletes s hf i
    exact ⟨u.consume, by rw [dispatchMessage_of_cmd hdec, hu]; rfl, rfl, rfl⟩

/-- Settles O32: a state of the invariant has a legal layout, and a message whenever it dispatches. -/
theorem everyStepCompletes : Obligations.EveryStepCompletes := by
  intro s hinv
  cases hd : s.dstate with
  | idle =>
    obtain ⟨t, ht⟩ := idleStep_completes s
    exact ⟨t, (step_of_idle hd).trans ht, by simp⟩
  | dispatching =>
    obtain ⟨t, ht, hidle, hlen⟩ := dispatchMessage_completes hinv.fits s.message
    exact ⟨t, (step_of_dispatching hd (hinv.pending hd)).trans ht, fun _ => ⟨hidle, hlen⟩⟩

/-! ## The reset state (R39) -/

theorem State.resetWith_bit {P : Params} (hP : P.WF) (g : Signal) : (State.resetWith P).bit g = P.resetBit g := by
  obtain ⟨-, -, ⟨hrange, hinj, -⟩, -⟩ := hP
  have hport : (P.layout.at g).port < P.nports := hrange g (by cases g <;> decide)
  exact (State.shadowBit_resetWith P hport _).trans (Params.bit_resetByte_signal hinj g)

theorem State.resetWith_mirrored (P : Params) : (State.resetWith P).Mirrored := by
  simp [State.Mirrored, State.resetWith]

@[simp] theorem State.resetWith_ports_length (P : Params) : (State.resetWith P).ports.length = P.nports := by
  simp [State.resetWith, Params.resetBytes]

theorem State.resetWith_foreignKept (P : Params) : (State.resetWith P).ForeignKept := by
  intro p hp b hb
  rw [State.resetWith_ports_length] at hp
  rw [State.shadowBit_resetWith P hp]
  exact Params.bit_resetByte_foreign hb

@[simp] theorem State.resetWith_tmr (P : Params) (u : Slot) : (State.resetWith P).tmr u = ⟨none, none, false⟩ := by
  cases u <;> rfl

/-- Settles O39: the ports as `RESET_FOREIGN` and the layout give them, and nothing pending. -/
theorem invariantAtReset : Obligations.InvariantAtReset := by
  intro P hP
  exact ⟨hP, State.resetWith_ports_length P, State.resetWith_mirrored P, State.resetWith_foreignKept P, .inl ⟨rfl, rfl⟩,
    .inl ⟨rfl, rfl⟩, Nat.le_refl 0, Nat.zero_le _, fun hbusy => (by cases hbusy), fun a ha => (by cases ha)⟩

/-- Settles O47. A stopped timer drives no motor, and the reset line and the auxiliary lines are at bit 0. -/
theorem resetValues : Obligations.ResetValues := by
  intro P hP
  have hbit := State.resetWith_bit hP
  refine ⟨hbit, ?_, fun k => ?_, State.resetWith_mirrored P, State.resetWith_foreignKept P, State.resetWith_ports_length P,
    State.resetWith_tmr P, rfl, rfl, rfl, fun m => ?_⟩
  · simp [State.resetState, hbit, Params.resetBit]
  · cases k <;> simp [State.auxLevel, hbit, AuxLine.signal, Params.resetBit]
  · simp [State.drives, State.motorTmr]

/-- Settles O48: the defaults, evaluated. -/
theorem resetDefault : Obligations.ResetDefault :=
  ⟨by decide, ⟨⟨rfl, rfl, rfl⟩, rfl⟩, by decide⟩

/-! ## No interlocks (R223, R229) -/

theorem State.drives_congr {s t : State} {m : Motor} (hrst : t.bit .rstRel = s.bit .rstRel) (hsleep : t.bit .sleep = s.bit .sleep)
    (htmr : t.motorTmr m = s.motorTmr m) : t.drives m = s.drives m := by
  simp [State.drives, hrst, hsleep, htmr]

/-- A motor is driven only with the drivers out of reset (R223). -/
theorem State.bit_rstRel_of_drives {s : State} {m : Motor} (h : s.drives m = true) : s.bit .rstRel = true := by
  simp only [State.drives, Bool.and_eq_true] at h
  tauto

theorem exec_motorTmr {i : Instr} {s t : State} (h : exec i s = .next t) {m : Motor}
    (hm : ∀ m', addressedMotor i = some m' → s.params.timerOf.of m' ≠ s.params.timerOf.of m) : t.motorTmr m = s.motorTmr m := by
  rw [State.motorTmr, (exec_keepsControl h).params, exec_tmr h hm, State.motorTmr]

/-- The commands that name the reset or the sleep line. -/
theorem instr_of_names_reset_or_sleep {i : Instr} (h : .rstRel ∈ namedSignals i ∨ .sleep ∈ namedSignals i) :
    i = .resetOn ∨ i = .resetOff ∨ i = .sleepOn ∨ i = .sleepOff := by
  cases i <;> simp_all [namedSignals]

/-- A signal that a command does not name keeps its bit (R102). -/
theorem exec_bit_kept {i : Instr} {s t : State} (hf : s.Fits) (h : exec i s = .next t) {g : Signal} (hg : g ∉ namedSignals i) :
    t.bit g = s.bit g := by
  rw [State.bit, (exec_keepsControl h).params]
  exact (maskDiscipline s t i hf h _ _ fun k hk => hf.at_ne (ne_of_mem_of_not_mem hk hg)).1

/-- A command that makes a motor driven addresses its slot, or writes one of the two lines the drivers wait for (R223). -/
theorem exec_drives {i : Instr} {s t : State} {m : Motor} (hf : s.Fits) (h : exec i s = .next t) (hs : s.drives m = false)
    (ht : t.drives m = true) :
    i = .resetOff ∨ i = .sleepOn ∨ i = .sleepOff ∨
      ∃ m', addressedMotor i = some m' ∧ s.params.timerOf.of m' = s.params.timerOf.of m := by
  by_cases haddr : ∃ m', addressedMotor i = some m' ∧ s.params.timerOf.of m' = s.params.timerOf.of m
  · exact .inr (.inr (.inr haddr))
  · have htmr : t.motorTmr m = s.motorTmr m := exec_motorTmr h fun m' hm' hslot => haddr ⟨m', hm', hslot⟩
    by_cases hnames : .rstRel ∈ namedSignals i ∨ .sleep ∈ namedSignals i
    · rcases instr_of_names_reset_or_sleep hnames with rfl | rfl | rfl | rfl
      · have hbit : t.bit .rstRel = false := State.setSignal_bit h
        simp [State.bit_rstRel_of_drives ht] at hbit
      · exact .inl rfl
      · exact .inr (.inl rfl)
      · exact .inr (.inr (.inl rfl))
    · rw [not_or] at hnames
      have hsame := State.drives_congr (exec_bit_kept hf h hnames.1) (exec_bit_kept hf h hnames.2) htmr
      simp [hsame, hs] at ht

/-- Settles O45: the frames of the commands, and for a step the command it executed. -/
theorem noInterlocks : Obligations.NoInterlocks := by
  refine ⟨fun s t => ⟨fun i hi h => ?_, fun i hi h => ?_⟩, fun s t m hf h hs ht => ?_⟩
  · have hunnamed : ∀ i ∈ [Instr.motorAOn, .motorAOff, .motorBOn, .motorBOff], namedSignals i = [] := by decide
    have hports := exec_ports h (hunnamed i hi)
    have hparams := (exec_keepsControl h).params
    exact ⟨hports, State.bit_congr hparams hports .rstRel, State.bit_congr hparams hports .sleep⟩
  · have hunaddressed : ∀ i ∈ [Instr.resetOn, .resetOff, .sleepOn, .sleepOff, .motorAForward, .motorABackward, .motorBForward,
        .motorBBackward, .microstepFull, .microstepHalf, .microstepQuarter, .microstepSixteenth], addressedMotor i = none := by
      decide
    have htmr (u : Slot) : t.tmr u = s.tmr u := exec_tmr h (by simp [hunaddressed i hi])
    exact ⟨htmr .slot0, htmr .slot1⟩
  · rcases step_outputs h with hkept | ⟨i, u, hexec⟩
    · have htmr : t.motorTmr m = s.motorTmr m := by rw [State.motorTmr, hkept.params, hkept.tmr, State.motorTmr]
      have hsame := State.drives_congr (State.bit_congr hkept.params hkept.ports .rstRel)
        (State.bit_congr hkept.params hkept.ports .sleep) htmr
      simp [hsame, hs] at ht
    · have hu : u.drives m = true := by rwa [hexec.eq, State.drives_congr rfl rfl rfl] at ht
      exact ⟨i, hexec.dec, exec_drives hf hexec.ex hs hu⟩

end Sys2Proof.Machine
